-- ==== Sys2Proof/Word.lean ====
section
/-! DEFINITION. The word types of the block (00_scope R11): 8-bit data, 16-bit commands and RESULT, 3-bit button masks. -/

namespace Sys2Proof

/-- An 8-bit datum: a sample, a setpoint, a speed, a song id, a note code. -/
abbrev Byte := BitVec 8

/-- A 16-bit command word or RESULT value (R11). -/
abbrev Word := BitVec 16

/-- A mask over the three buttons: bit 0 = A (ON), bit 1 = B (START), bit 2 = C (HORN) (R32). -/
abbrev ButtonMask := BitVec 3

end Sys2Proof
end

