-- ==== Sys2Proof/Config.lean ====
section
/-! DEFINITION. What an implementation of the block fixes: the parameters of 00_scope R9 with their constraints, the port
binding of 20_memory R52 and R53, the reference configuration of 92_eei_decisions D6, the host parameters of R200, and
the values the spec leaves free. -/

namespace Sys2Proof

/-- The byte order of a byte-bus binding, the parameter PORT_BYTE_ORDER (R53). -/
inductive ByteOrder where
  /-- Bits 7..0 at the lower byte address (the reference). -/
  | little
  /-- Bits 15..8 at the lower byte address. -/
  | big
  deriving DecidableEq, Repr

/-- The configuration record of the block (R9, R52, R53). LEN_E, LEN_H and NUM_SONGS are the lengths of their tables. -/
structure Config where
  /-- `E`: extra fractional bits of `filteredSpeed`. -/
  extraBits : Nat
  /-- ENG_TABLE, LEN_E entries. -/
  engTable : List Byte
  /-- `F_E`: engine phase fractional bits. -/
  fE : Nat
  /-- ENG_SHIFT: right shift from speed to engine phase increment. -/
  engShift : Nat
  /-- HORN_TABLE, LEN_H entries. -/
  hornTable : List Byte
  /-- `F_H`: horn phase fractional bits. -/
  fH : Nat
  /-- NOTE_INC: the phase increment of each of the 256 note codes. -/
  noteInc : List Nat
  /-- SONG_LIB: each song's note codes; NUM_SONGS songs. -/
  songLib : List (List Byte)
  /-- MAX_SONG_LEN: capacity of the working buffer. -/
  maxSongLen : Nat
  /-- DUR_NOTE: HORN.TICK counts of a sounding note. -/
  durNote : Nat
  /-- DUR_REST: HORN.TICK counts of a rest. -/
  durRest : Nat
  /-- B1: lower bound of ladder band 1. -/
  b1 : Nat
  /-- B2: lower bound of ladder band 2. -/
  b2 : Nat
  /-- B3: lower bound of ladder band 3. -/
  b3 : Nat
  /-- B4: lower bound of ladder band 4. -/
  b4 : Nat
  /-- PORT_BASE: byte address of the command port. -/
  portBase : Nat
  /-- PORT_BYTE_ORDER. -/
  portByteOrder : ByteOrder
  deriving DecidableEq, Repr

/-- SPEED_BITS, fixed at 8 (R9). -/
def Config.speedBits : Nat := 8

/-- MID, the silence level, fixed at 128 (R9). -/
def Config.mid : Nat := 128

/-- W_F, the width of `filteredSpeed` (R9). -/
def Config.wF (c : Config) : Nat := Config.speedBits + c.extraBits

/-- `L_E = LEN_E * 2^F_E` (R140). -/
def Config.lE (c : Config) : Nat := c.engTable.length * 2 ^ c.fE

/-- `L_H = LEN_H * 2^F_H` (R140). -/
def Config.lH (c : Config) : Nat := c.hornTable.length * 2 ^ c.fH

/-- The constraints of R9, row by row, and the alignment of PORT_BASE (R52). -/
abbrev Config.Valid (c : Config) : Prop :=
  c.extraBits ≤ 8 ∧
  (1 ≤ c.engTable.length ∧ c.engTable.length ≤ 256) ∧
  c.fE ≤ 8 ∧
  (c.engShift ≤ 7 ∧ 255 >>> c.engShift < c.lE) ∧
  (1 ≤ c.hornTable.length ∧ c.hornTable.length ≤ 256) ∧
  (c.fE < c.fH ∧ c.fH ≤ 12) ∧
  (c.noteInc.length = 256 ∧ c.noteInc.head? = some 0 ∧ (c.noteInc.tail.all fun x => x != 0) = true ∧
    (c.noteInc.all fun x => decide (x < c.lH)) = true) ∧
  (1 ≤ c.songLib.length ∧ c.songLib.length ≤ 256) ∧
  (1 ≤ c.maxSongLen ∧ c.maxSongLen ≤ 255) ∧
  (c.songLib.all fun notes => decide (notes.length ≤ c.maxSongLen)) = true ∧
  (1 ≤ c.durNote ∧ c.durNote < c.durRest ∧ c.durRest ≤ 255) ∧
  (0 < c.b1 ∧ c.b1 ≤ 60 ∧ 60 < c.b2 ∧ c.b2 < c.b3 ∧ c.b3 < c.b4 ∧ c.b4 ≤ 255) ∧
  c.portBase % 2 = 0

/-- The reference configuration (92_eei_decisions D6, D13, D16, D23), with PORT_BASE 0, which the spec leaves open
(DESIGN CHOICE, log entry 2), and the reference byte order (R53). -/
def Config.reference : Config where
  extraBits := 4
  engTable := [128#8, 218#8, 255#8, 218#8, 128#8, 38#8, 0#8, 38#8]
  fE := 4
  engShift := 2
  hornTable := [128#8, 255#8, 128#8, 0#8]
  fH := 6
  noteInc := List.range 256
  songLib := [[40#8, 0#8, 40#8], [40#8]]
  maxSongLen := 8
  durNote := 2
  durRest := 3
  b1 := 32
  b2 := 96
  b3 := 160
  b4 := 224
  portBase := 0
  portByteOrder := .little

/-- FREE VALUE (log entry 7): what the read of CMD numbered by the argument gives (R54, U10: any value). -/
opaque Config.cmdReadValue : Nat → Word

/-- FREE VALUE (log entry 8): what a byte table or the song buffer holds at an index outside it. The spec bounds every
index (R35), so no reachable state reads it. -/
opaque Config.unlistedByte : Nat → Byte

/-- FREE VALUE (log entry 8): what NOTE_INC holds at a code outside its 256 entries. No valid configuration has one. -/
opaque Config.unlistedIncrement : Nat → Nat

/-- The host parameters of R200. They belong to the surrounding software, not to the block (R10). -/
structure HostParams where
  idle : Byte
  max : Byte
  crankSpeed : Byte
  effects : Byte
  aFast : BitVec 4
  aMed : BitVec 4
  aSlow : BitVec 4
  tickMs : Nat
  minCrankTicks : Nat
  hornCycle : Nat
  blinkLen : Nat
  minDuty : Byte
  maxDuty : Byte
  songDouble : Byte
  songSingle : Byte
  nDiv : Nat
  deriving DecidableEq, Repr

/-- A song id is playable: inside the library, and the song is not empty (R170). -/
abbrev Config.Playable (c : Config) (id : Byte) : Prop :=
  id.toNat < c.songLib.length ∧ 1 ≤ (c.songLib.getD id.toNat []).length

/-- The constraints of R200, row by row. -/
abbrev HostParams.Valid (p : HostParams) (c : Config) : Prop :=
  (0#8 < p.idle ∧ p.idle ≤ p.max) ∧
  p.idle ≤ p.effects ∧
  (p.aFast < p.aMed ∧ p.aMed < p.aSlow) ∧
  p.tickMs = 40 ∧
  p.minCrankTicks = 4000 / p.tickMs ∧
  (p.hornCycle % 2 = 0 ∧ 2 ≤ p.hornCycle) ∧
  (p.blinkLen / 2 = 12 ∨ p.blinkLen / 2 = 13) ∧
  p.minDuty ≤ p.maxDuty ∧
  (c.Playable p.songDouble ∧ c.Playable p.songSingle) ∧
  p.nDiv = 8000 / 25

/-- The reference host parameters (92_eei_decisions D40). -/
def HostParams.reference : HostParams where
  idle := 64#8
  max := 240#8
  crankSpeed := 32#8
  effects := 72#8
  aFast := 2#4
  aMed := 3#4
  aSlow := 4#4
  tickMs := 40
  minCrankTicks := 100
  hornCycle := 250
  blinkLen := 25
  minDuty := 64#8
  maxDuty := 255#8
  songDouble := 0#8
  songSingle := 1#8
  nDiv := 320

end Sys2Proof
end

