-- ==== Sys2Proof/Syntax.lean ====
section
/-! DEFINITION. The commands of the block: one constructor per row of the opcode map (30_encoding R74).
Every operand is an unsigned immediate as wide as its field (R71, R73). -/

namespace Sys2Proof

/-- The nine commands of R74. -/
inductive Instr where
  /-- NOP, format Z (R190). -/
  | nop
  /-- LAD.SET, format I8: the 8-bit ladder sample (R101). -/
  | ladSet (v : Byte)
  /-- LAD.PRESSED, format B2: the 2-bit button id, 3 included, since the word decodes (R77, R105). -/
  | ladPressed (btn : BitVec 2)
  /-- LAD.CLICKED, format B2: the 2-bit button id, 3 included (R77, R106). -/
  | ladClicked (btn : BitVec 2)
  /-- LPF.STEP, format S4I8: shift amount and setpoint (R121). -/
  | lpfStep (a : BitVec 4) (sp : Byte)
  /-- LPF.GET, format Z (R126). -/
  | lpfGet
  /-- OSC.SAMPLE, format I8: the engine speed (R145). -/
  | oscSample (v : Byte)
  /-- HORN.PLAY, format I8: the song id (R171). -/
  | hornPlay (id : Byte)
  /-- HORN.TICK, format Z (R175). -/
  | hornTick
  deriving DecidableEq, Repr

/-- The command's mnemonic, as R74 and the opcode table spell it. -/
def Instr.mnemonic : Instr → String
  | .nop => "NOP"
  | .ladSet _ => "LAD.SET"
  | .ladPressed _ => "LAD.PRESSED"
  | .ladClicked _ => "LAD.CLICKED"
  | .lpfStep _ _ => "LPF.STEP"
  | .lpfGet => "LPF.GET"
  | .oscSample _ => "OSC.SAMPLE"
  | .hornPlay _ => "HORN.PLAY"
  | .hornTick => "HORN.TICK"

end Sys2Proof
end

