-- ==== Sys2Proof/Decode.lean ====
section
/-! DEFINITION. Decoding and encoding of command words (30_encoding R70 to R78), and the opcode map as data (R74). -/

namespace Sys2Proof

/-- Why a word decodes to ILLEGAL (R72). -/
inductive Illegal where
  /-- The opcode is 9 to 15 (R75). -/
  | reservedOpcode
  /-- The opcode is defined and a reserved-zero bit of its format is 1 (R76). -/
  | reservedBits
  deriving DecidableEq, Repr

/-- `op = w[15:12]` (R71). -/
def opField (w : Word) : BitVec 4 := w.extractLsb' 12 4

/-- `imm8 = w[7:0]` (R71). -/
def imm8Field (w : Word) : Byte := w.extractLsb' 0 8

/-- `btn = w[1:0]` (R71). -/
def btnField (w : Word) : BitVec 2 := w.extractLsb' 0 2

/-- `a = w[11:8]` (R71). -/
def shiftField (w : Word) : BitVec 4 := w.extractLsb' 8 4

/-- Format Z: `w[11:0]` is reserved zero (R71). -/
def decodeZ (w : Word) (i : Instr) : Except Illegal Instr :=
  if w.extractLsb' 0 12 = 0#12 then .ok i else .error .reservedBits

/-- Format I8: `w[11:8]` is reserved zero (R71). -/
def decodeI8 (w : Word) (mk : Byte → Instr) : Except Illegal Instr :=
  if w.extractLsb' 8 4 = 0#4 then .ok (mk (imm8Field w)) else .error .reservedBits

/-- Format B2: `w[11:2]` is reserved zero (R71). -/
def decodeB2 (w : Word) (mk : BitVec 2 → Instr) : Except Illegal Instr :=
  if w.extractLsb' 2 10 = 0#10 then .ok (mk (btnField w)) else .error .reservedBits

/-- The decode function, total on all 65536 words (R72). -/
def decode (w : Word) : Except Illegal Instr :=
  match (opField w).toNat with
  | 0 => decodeZ w .nop
  | 1 => decodeI8 w .ladSet
  | 2 => decodeB2 w .ladPressed
  | 3 => decodeB2 w .ladClicked
  | 4 => .ok (.lpfStep (shiftField w) (imm8Field w))
  | 5 => decodeZ w .lpfGet
  | 6 => decodeI8 w .oscSample
  | 7 => decodeI8 w .hornPlay
  | 8 => decodeZ w .hornTick
  | _ => .error .reservedOpcode

/-- A word of format Z. -/
def wordZ (op : BitVec 4) : Word := op ++ 0#12

/-- A word of format I8. -/
def wordI8 (op : BitVec 4) (imm : Byte) : Word := op ++ 0#4 ++ imm

/-- A word of format B2. -/
def wordB2 (op : BitVec 4) (btn : BitVec 2) : Word := op ++ 0#10 ++ btn

/-- A word of format S4I8. -/
def wordS4I8 (op a : BitVec 4) (imm : Byte) : Word := op ++ a ++ imm

/-- The command word of a command (R71, R74). -/
def encode : Instr → Word
  | .nop => wordZ 0x0#4
  | .ladSet v => wordI8 0x1#4 v
  | .ladPressed btn => wordB2 0x2#4 btn
  | .ladClicked btn => wordB2 0x3#4 btn
  | .lpfStep a sp => wordS4I8 0x4#4 a sp
  | .lpfGet => wordZ 0x5#4
  | .oscSample v => wordI8 0x6#4 v
  | .hornPlay id => wordI8 0x7#4 id
  | .hornTick => wordZ 0x8#4

/-- A row of the opcode map: `w` is the command exactly when `w &&& mask = bits` (R74). -/
structure OpcodeRow where
  mnemonic : String
  bits : Word
  mask : Word
  deriving DecidableEq, Repr

/-- The opcode map of R74, row by row. -/
def opcodeTable : List OpcodeRow :=
  [ ⟨"NOP", 0x0000#16, 0xFFFF#16⟩,
    ⟨"LAD.SET", 0x1000#16, 0xFF00#16⟩,
    ⟨"LAD.PRESSED", 0x2000#16, 0xFFFC#16⟩,
    ⟨"LAD.CLICKED", 0x3000#16, 0xFFFC#16⟩,
    ⟨"LPF.STEP", 0x4000#16, 0xF000#16⟩,
    ⟨"LPF.GET", 0x5000#16, 0xFFFF#16⟩,
    ⟨"OSC.SAMPLE", 0x6000#16, 0xFF00#16⟩,
    ⟨"HORN.PLAY", 0x7000#16, 0xFF00#16⟩,
    ⟨"HORN.TICK", 0x8000#16, 0xFFFF#16⟩ ]

/-- The word has the row's bits under the row's mask (R74). -/
def OpcodeRow.covers (r : OpcodeRow) (w : Word) : Bool := w &&& r.mask == r.bits

/-- The command the decoder reads from a table row's `nbits` low bits `w`, every higher bit of the word being 0. -/
def decodeTableWord (nbits w : Nat) : Option Instr :=
  match decode (BitVec.ofNat 16 (w % 2 ^ nbits)) with
  | .ok i => some i
  | .error _ => none

end Sys2Proof
end

