-- ==== Sys2Proof/Machine/State.lean ====
section
/-! DEFINITION. The state of the block (10_state), its reset (70_reset_and_hazards R260), the reasons a step stops, and
the port accesses of the host that a step serves (20_memory R50 to R56). -/

namespace Sys2Proof.Machine

/-- The fault reasons of R241, a closed list. Each records the whole command word. -/
inductive Fault where
  /-- ILLEGAL_CMD: raised by the command port for a word that decodes to ILLEGAL (R72, R75, R76). Safe: the spec's own outcome. -/
  | illegalCmd (w : Word)
  /-- BAD_BUTTON: raised by LAD.PRESSED and LAD.CLICKED with `btn = 3` (R104). Safe: the spec's own outcome. -/
  | badButton (w : Word)
  deriving DecidableEq, Repr

/-- Why the model gives no step. -/
inductive Refusal where
  /-- An instruction without a meaning in this model: raised by no arm of `exec`. Safe. -/
  | notModelled (mnemonic : String)
  /-- The configuration breaks a constraint of R9, so it is no configuration of this block: raised by `step` (R264, U17). Safe. -/
  | invalidConfiguration
  /-- A fault is recorded, and every later access is refused: raised by `step` (R242, U9). Safe. -/
  | afterFault (r : Fault)
  /-- Host parameters that break a constraint of R200: raised by `whenHostValid`, for the host's program only (R264, U17,
  log entry 24). Safe. -/
  | invalidHostParameters
  /-- A bus access to a reserved offset, of which the window has no upper end (log entry 13): raised by `locate` (R52, R54,
  U12). Safe. -/
  | reservedOffset
  /-- A bus access to a port that is not two bytes wide: raised by `locate`. R54 and U12 refuse the narrower ones; that the
  wider ones and those of no bytes are refused too is a DESIGN CHOICE (log entry 23). Safe. -/
  | notFullWidth
  /-- A bus access to a port at an odd address: raised by `locate` (R54, U12). Safe. -/
  | misaligned
  /-- A bus access below PORT_BASE, which is no access to this block: raised by `locate` (R52, log entry 13). Safe. -/
  | outsideWindow
  deriving DecidableEq, Repr

/-- One access of the host to the block's ports. The first four are word accesses (R50, R54); the last two reach the
ports through a byte bus (R52, R53). -/
inductive Access where
  /-- Write a command word to the command port: the command executes (R56, R70). -/
  | writeCmd (w : Word)
  /-- Read the command port: an unspecified value (R54). -/
  | readCmd
  /-- Read RESULT (R37). -/
  | readResult
  /-- Write RESULT: no effect (R54). -/
  | writeResult (w : Word)
  /-- Read `width` bytes from byte address `addr`. -/
  | busRead (addr width : Nat)
  /-- Write the bytes, the first at byte address `addr`. -/
  | busWrite (addr : Nat) (bytes : List Byte)
  deriving DecidableEq, Repr

/-- What the last port read gave the host (the model's own record). -/
inductive HostRead where
  /-- The host has read nothing yet. -/
  | nothing
  /-- A word read. -/
  | word (w : Word)
  /-- A bus read: the bytes in rising address order. -/
  | bytes (bs : List Byte)
  deriving DecidableEq, Repr

/-- The state: the fields of 10_state, the configuration that nothing writes (log entry 1), and the model's own fields. -/
structure State where
  /-- The configuration (R9, R35): read-only. -/
  cfg : Config
  /-- `S.y`, filteredSpeed, W_F bits (R22). -/
  y : Nat
  /-- `S.phE`, engine phase accumulator, below L_E (R24). -/
  phE : Nat
  /-- `S.phH`, horn phase accumulator, below L_H (R25). -/
  phH : Nat
  /-- `S.buf`, the working song buffer, MAX_SONG_LEN entries (R26). -/
  buf : List Byte
  /-- `S.slen`, length of the copied song (R27). -/
  slen : Byte
  /-- `S.nidx`, noteIndex (R28). -/
  nidx : Byte
  /-- `S.ncnt`, noteTickCounter (R29). -/
  ncnt : Byte
  /-- `S.hinc`, currentIncrement (R30). -/
  hinc : Nat
  /-- `S.playing` (R31). -/
  playing : Bool
  /-- `S.pressed` (R32). -/
  pressed : ButtonMask
  /-- `S.clicks` (R33). -/
  clicks : ButtonMask
  /-- RESULT (R37). -/
  result : Word
  /-- `S.fault` (R40). -/
  fault : Option Fault
  /-- The host's accesses not yet served, oldest first (the model's own; log entry 3). -/
  pending : List Access
  /-- What the last port read gave the host (the model's own; log entry 6). -/
  lastRead : HostRead
  /-- Numbers the free values that reads of CMD give (the model's own; log entry 7). -/
  freeCount : Nat
  deriving DecidableEq, Repr

/-- Power-on reset under a configuration (R260): every field zero or idle, the ROM tables as they are. -/
def State.resetWith (c : Config) : State where
  cfg := c
  y := 0
  phE := 0
  phH := 0
  buf := List.replicate c.maxSongLen 0#8
  slen := 0#8
  nidx := 0#8
  ncnt := 0#8
  hinc := 0
  playing := false
  pressed := 0#3
  clicks := 0#3
  result := 0#16
  fault := none
  pending := []
  lastRead := .nothing
  freeCount := 0

/-- The machine right after reset, under the reference configuration (log entry 1). -/
def State.reset : State := State.resetWith Config.reference

end Sys2Proof.Machine
end

