-- ==== Sys2Proof/Machine/Ops.lean ====
section
/-! DEFINITION. The named operations over the state: every write of a field goes through one of them, and every table
read through an index-bounded accessor (10_state R35). The fault outcome of 60_exceptions R240 and R242 is here too. -/

namespace Sys2Proof.Machine

/-- `S.y <- v` (R22). -/
def State.setY (s : State) (v : Nat) : State := { s with y := v }

/-- `S.phE <- e`, `S.phH <- h` (R24, R25). -/
def State.setPhases (s : State) (e h : Nat) : State := { s with phE := e, phH := h }

/-- `RESULT <- w` (R37). -/
def State.setResult (s : State) (w : Word) : State := { s with result := w }

/-- `S.pressed <- p` (R32). -/
def State.setPressed (s : State) (p : ButtonMask) : State := { s with pressed := p }

/-- `S.clicks <- m` (R33). -/
def State.setClicks (s : State) (m : ButtonMask) : State := { s with clicks := m }

/-- The note buffer and its length (R26, R27). -/
def State.setSong (s : State) (b : List Byte) (n : Byte) : State := { s with buf := b, slen := n }

/-- The playback cursor, the note counter and the playing bit (R28, R29, R31). -/
def State.setCursor (s : State) (k n : Byte) (p : Bool) : State := { s with nidx := k, ncnt := n, playing := p }

/-- `S.hinc <- v` (R30). -/
def State.setHinc (s : State) (v : Nat) : State := { s with hinc := v }

/-- `S.fault <- r` (R40, R240). -/
def State.setFault (s : State) (r : Fault) : State := { s with fault := some r }

/-- The accesses still to be served. -/
def State.setPending (s : State) (l : List Access) : State := { s with pending := l }

/-- What a port read gave the host. -/
def State.setLastRead (s : State) (d : HostRead) : State := { s with lastRead := d }

/-- The next read of CMD gives another free value. -/
def State.bumpFree (s : State) : State := { s with freeCount := s.freeCount + 1 }

/-- `clamp(x, lo, hi)` over signed integers (R12). -/
def clamp (x lo hi : Int) : Int := min (max x lo) hi

/-- `zext_16` of an 8-bit value (R12). -/
def zext16 (v : Byte) : Word := v.setWidth 16

/-- `zext_16` of one bit (R12). -/
def zextBit (b : Bool) : Word := if b then 1#16 else 0#16

/-- Entry `k` of a byte table or of the song buffer (R35, R51); outside it, a free value (log entry 8). -/
def entry (t : List Byte) (k : Nat) : Byte := (t[k]?).getD (Config.unlistedByte k)

/-- `NOTE_INC(c)` (R9). -/
def noteIncOf (c : Config) (code : Byte) : Nat := (c.noteInc[code.toNat]?).getD (Config.unlistedIncrement code.toNat)

/-- Enumeration code of a fault reason (R241); no register holds it. -/
def faultCode : Fault → Nat
  | .illegalCmd _ => 1
  | .badButton _ => 2

/-- Go on with `k` if `o` is a next state; stop as `o` stops otherwise. -/
def andThen (o : Host.Outcome α Fault Refusal) (k : α → Host.Outcome β Fault Refusal) : Host.Outcome β Fault Refusal :=
  match o with
  | .next a => k a
  | .fault r => .fault r
  | .refused r => .refused r

/-- What must hold before the block's rules apply: the configuration is one of this block (R264), and no fault is
recorded (R242). -/
def whenReady (s : State) (k : Host.Outcome State Fault Refusal) : Host.Outcome State Fault Refusal :=
  if s.cfg.Valid then
    match s.fault with
    | none => k
    | some r => .refused (.afterFault r)
  else .refused .invalidConfiguration

end Sys2Proof.Machine
end

