-- ==== Sys2Proof/Machine/Control.lean ====
section
/-! DEFINITION. Block control commands (44_control). -/

namespace Sys2Proof.Machine

/-- NOP: no effect, RESULT unchanged (R190). -/
def execNop (s : State) : Host.Outcome State Fault Refusal := .next s

end Sys2Proof.Machine
end

