-- ==== Sys2Proof/Machine/Operands.lean ====
section
/-! DEFINITION. The operand forms of 30_encoding R73. Every operand is an unsigned immediate of the command word,
zero-extended: the constructors of `Instr` carry the fields, and these are their values. -/

namespace Sys2Proof.Machine

/-- The value of an `imm8` operand, 0..255 (R73). -/
abbrev immValue (v : Byte) : Nat := v.toNat

/-- The value of the shift operand `a`, 0..15 (R73). -/
abbrev shiftValue (a : BitVec 4) : Nat := a.toNat

/-- The button operand: the bit number it names, or BAD_BUTTON for the id 3, before any read or write (R104).
`w` is the whole command word, which the fault records (R241). -/
def withButton (btn : BitVec 2) (w : Word) (k : Nat → Host.Outcome State Fault Refusal) :
    Host.Outcome State Fault Refusal :=
  if btn = 3#2 then .fault (.badButton w) else k btn.toNat

end Sys2Proof.Machine
end

