-- ==== Sys2Proof/Machine/Filter.lean ====
section
/-! DEFINITION. The LPF unit: the first-order shift-and-subtract filter (41_lpf). -/

namespace Sys2Proof.Machine

/-- One filter step from `y` with shift `a` and setpoint `sp`: the exact intermediate, then the truncating shift
(R120, R121, R127). The subtraction is never negative (R120). -/
def lpfNext (c : Config) (a sp y : Nat) : Nat :=
  ((y <<< a) - y + (sp <<< c.extraBits)) >>> a

/-- The public speed, SPEED_BITS = 8 bits of `S.y >> E` (R126; log entry 10). -/
def publicSpeed (s : State) : Byte := BitVec.ofNat 8 (s.y >>> s.cfg.extraBits)

/-- LPF.STEP: one filter step (R121). -/
def execLpfStep (a : BitVec 4) (sp : Byte) (s : State) : Host.Outcome State Fault Refusal :=
  .next (s.setY (lpfNext s.cfg (shiftValue a) (immValue sp) s.y))

/-- LPF.GET: read the public speed (R126). -/
def execLpfGet (s : State) : Host.Outcome State Fault Refusal :=
  .next (s.setResult (zext16 (publicSpeed s)))

end Sys2Proof.Machine
end

