-- ==== Sys2Proof/Machine/Flags.lean ====
section
/-! DEFINITION. The state bits that behave as flags (10_state R34): the pressed mask, the pending clicks and the playing
bit. The block has no condition codes. -/

namespace Sys2Proof.Machine

/-- Bit `b` of a button mask. -/
def maskBit (m : ButtonMask) (b : Nat) : Bool := m.getLsbD b

/-- The buttons that rise from mask `p` to mask `n` (R101, R102). -/
def risingEdges (p n : ButtonMask) : ButtonMask := ~~~p &&& n &&& 0b111#3

/-- The pending clicks after the mask goes from `p` to `n` (R102). -/
def latchClicks (clicks p n : ButtonMask) : ButtonMask := clicks ||| risingEdges p n

/-- The mask with bit `b` cleared (R106). -/
def clearBit (m : ButtonMask) (b : Nat) : ButtonMask := m &&& ~~~(1#3 <<< b)

/-- The playing bit after the cursor moves to `k` in a song of length `n`: the song stops past its last note (R175). -/
def stillPlaying (k n : Byte) : Bool := decide (k < n)

end Sys2Proof.Machine
end

