-- ==== Sys2Proof/Machine/Ladder.lean ====
section
/-! DEFINITION. The LAD unit: the threshold comparator bank and the button queries (40_ladder). -/

namespace Sys2Proof.Machine

/-- The button mask of the band that holds sample `v` (R100). -/
def bandMask (c : Config) (v : Nat) : ButtonMask :=
  if v < c.b1 then 0b000#3
  else if v < c.b2 then 0b001#3
  else if v < c.b3 then 0b101#3
  else if v < c.b4 then 0b011#3
  else 0b111#3

/-- LAD.SET: decode one ladder sample (R101). -/
def execLadSet (v : Byte) (s : State) : Host.Outcome State Fault Refusal :=
  let new := bandMask s.cfg (immValue v)
  .next ((s.setClicks (latchClicks s.clicks s.pressed new)).setPressed new)

/-- LAD.PRESSED: whether a button is held (R105). -/
def execLadPressed (btn : BitVec 2) (s : State) : Host.Outcome State Fault Refusal :=
  withButton btn (encode (.ladPressed btn)) fun b => .next (s.setResult (zextBit (maskBit s.pressed b)))

/-- LAD.CLICKED: read and clear one pending click (R106). -/
def execLadClicked (btn : BitVec 2) (s : State) : Host.Outcome State Fault Refusal :=
  withButton btn (encode (.ladClicked btn)) fun b =>
    .next ((s.setResult (zextBit (maskBit s.clicks b))).setClicks (clearBit s.clicks b))

end Sys2Proof.Machine
end

