-- ==== Sys2Proof/Machine/Oscillator.lean ====
section
/-! DEFINITION. The OSC unit: two wavetable tracks, 3-point interpolation and the saturating mixer (42_oscillator). -/

namespace Sys2Proof.Machine

/-- The silence level as a sample (R9). -/
def silence : Byte := BitVec.ofNat 8 Config.mid

/-- The average of two neighbours: their sum halved, truncated (R143). -/
def average (s0 s1 : Byte) : Byte := BitVec.ofNat 8 ((s0.toNat + s1.toNat) >>> 1)

/-- The 3-point interpolator over a table with `f` fractional bits, at phase `ph` (R143). -/
def interp (table : List Byte) (f ph : Nat) : Byte :=
  let idx := ph >>> f
  let frac := ph % 2 ^ f
  let s0 := entry table idx
  let s1 := entry table ((idx + 1) % table.length)
  if 3 * frac < 2 ^ f then s0
  else if 2 ^ (f + 1) ≤ 3 * frac then s1
  else average s0 s1

/-- One audio tick of the engine track at speed `v` from phase `ph`: the new phase and the sample (R141). -/
def engineTick (c : Config) (v ph : Nat) : Nat × Byte :=
  if v = 0 then (0, silence)
  else
    let ph' := (ph + v >>> c.engShift) % c.lE
    (ph', interp c.engTable c.fE ph')

/-- One audio tick of the horn track from phase `ph`: the new phase and the sample (R142). -/
def hornTrackTick (c : Config) (playing : Bool) (hinc ph : Nat) : Nat × Byte :=
  if playing = true ∧ hinc ≠ 0 then
    let ph' := (ph + hinc) % c.lH
    (ph', interp c.hornTable c.fH ph')
  else (ph, silence)

/-- The mix of the two samples, offset removed, saturated to 0..255 (R144). -/
def mix (eng horn : Byte) : Byte :=
  BitVec.ofInt 8 (clamp ((eng.toNat : Int) + (horn.toNat : Int) - (Config.mid : Int)) 0 255)

/-- OSC.SAMPLE: one mixed audio sample (R145). -/
def execOscSample (v : Byte) (s : State) : Host.Outcome State Fault Refusal :=
  let e := engineTick s.cfg (immValue v) s.phE
  let h := hornTrackTick s.cfg s.playing s.hinc s.phH
  .next ((s.setPhases e.1 h.1).setResult (zext16 (mix e.2 h.2)))

end Sys2Proof.Machine
end

