-- ==== Sys2Proof/Machine/Sequencer.lean ====
section
/-! DEFINITION. The horn song sequencer of the OSC unit (43_horn_sequencer). -/

namespace Sys2Proof.Machine

/-- The notes of a playable song; none for an id outside the library or a zero-length song (R170). -/
def playableNotes (c : Config) (id : Byte) : Option (List Byte) :=
  match c.songLib[immValue id]? with
  | none => none
  | some notes => if 1 ≤ notes.length then some notes else none

/-- Start the song: copy it, entries beyond its length unchanged, reset cursor and counter, set the first note's
increment, set the playing bit (R171). -/
def startSong (notes : List Byte) (s : State) : State :=
  let b := notes ++ s.buf.drop notes.length
  (((s.setSong b (BitVec.ofNat 8 notes.length)).setCursor 0#8 0#8 true).setHinc (noteIncOf s.cfg (entry b 0)))

/-- HORN.PLAY: start a song; an unplayable id changes nothing (R170, R171). -/
def execHornPlay (id : Byte) (s : State) : Host.Outcome State Fault Refusal :=
  match playableNotes s.cfg id with
  | none => .next s
  | some notes => .next (startSong notes s)

/-- The duration of a note in HORN.TICK counts (R174). -/
def noteDur (c : Config) (code : Byte) : Nat := if code = 0#8 then c.durRest else c.durNote

/-- Count one tick of the current note; at its end go to the next note, or stop past the last (R175). -/
def advanceNote (s : State) : State :=
  let d := noteDur s.cfg (entry s.buf s.nidx.toNat)
  let n := s.ncnt + 1#8
  if d ≤ n.toNat then s.setCursor (s.nidx + 1#8) 0#8 (stillPlaying (s.nidx + 1#8) s.slen)
  else s.setCursor s.nidx n true

/-- Refresh the active increment from the current note, 0 if there is none (R175). -/
def refreshIncrement (s : State) : State :=
  s.setHinc (if s.playing = true then noteIncOf s.cfg (entry s.buf s.nidx.toNat) else 0)

/-- HORN.TICK: advance the sequencer by one model tick (R175). -/
def execHornTick (s : State) : Host.Outcome State Fault Refusal :=
  .next (refreshIncrement (if s.playing = true then advanceNote s else s))

end Sys2Proof.Machine
end

