-- ==== Sys2Proof/Machine/Dispatch.lean ====
section
/-! DEFINITION. One arm per command: its meaning (30_encoding R74, the semantics column). -/

namespace Sys2Proof.Machine

def exec (i : Instr) (s : State) : Host.Outcome State Fault Refusal :=
  match i with
  | .nop => Sys2Proof.Machine.execNop s
  | .ladSet v => Sys2Proof.Machine.execLadSet v s
  | .ladPressed btn => Sys2Proof.Machine.execLadPressed btn s
  | .ladClicked btn => Sys2Proof.Machine.execLadClicked btn s
  | .lpfStep a sp => Sys2Proof.Machine.execLpfStep a sp s
  | .lpfGet => Sys2Proof.Machine.execLpfGet s
  | .oscSample v => Sys2Proof.Machine.execOscSample v s
  | .hornPlay id => Sys2Proof.Machine.execHornPlay id s
  | .hornTick => Sys2Proof.Machine.execHornTick s

end Sys2Proof.Machine
end

