-- ==== Sys2Proof/Machine/Port.lean ====
section
/-! DEFINITION. The two ports of the block: what a command word does (60_exceptions R240), the byte-bus binding
(20_memory R52, R53), and what each access of the host does (R54, R56). -/

namespace Sys2Proof.Machine

/-- One command word at the command port: the fault ILLEGAL_CMD if it decodes to ILLEGAL, else the command (R72, R240). -/
def command (w : Word) (s : State) : Host.Outcome State Fault Refusal :=
  match decode w with
  | .ok i => exec i s
  | .error _ => .fault (.illegalCmd w)

/-- The two ports. -/
inductive Port where
  | cmd
  | result
  deriving DecidableEq, Repr

/-- The port a bus access reaches: CMD at PORT_BASE + 0, RESULT at PORT_BASE + 2, two bytes at an even address, and
nothing else (R52, R54). R54 and U12 refuse narrower and misaligned accesses and reserved offsets. DESIGN CHOICE: an access
wider than 16 bits, or of no bytes, which they leave merely not defined, is refused too (log entry 23); and below the base,
with no upper end of the window, and in this order of the checks (log entry 13). -/
def locate (c : Config) (addr width : Nat) : Except Refusal Port :=
  if addr < c.portBase then .error .outsideWindow
  else if c.portBase + 4 ≤ addr then .error .reservedOffset
  else if width ≠ 2 then .error .notFullWidth
  else if addr % 2 ≠ 0 then .error .misaligned
  else if addr = c.portBase then .ok .cmd
  else .ok .result

/-- The bytes of a word in rising address order (R53). -/
def laneBytes (o : ByteOrder) (w : Word) : List Byte :=
  match o with
  | .little => [w.extractLsb' 0 8, w.extractLsb' 8 8]
  | .big => [w.extractLsb' 8 8, w.extractLsb' 0 8]

/-- The word of two bytes in rising address order (R53). -/
def laneWord (o : ByteOrder) (bs : List Byte) : Word :=
  match o with
  | .little => bs.getD 1 0#8 ++ bs.getD 0 0#8
  | .big => bs.getD 0 0#8 ++ bs.getD 1 0#8

/-- A read of CMD gives a free value, the next read another (R54, U10; log entry 7). -/
def readCmdPort (s : State) (present : Word → HostRead) : Host.Outcome State Fault Refusal :=
  .next ((s.setLastRead (present (Config.cmdReadValue s.freeCount))).bumpFree)

/-- A read of RESULT gives its value and has no side effect (R37, R56). -/
def readResultPort (s : State) (present : Word → HostRead) : Host.Outcome State Fault Refusal :=
  .next (s.setLastRead (present s.result))

/-- A read through the byte bus. -/
def busReadPort (s : State) (addr width : Nat) : Host.Outcome State Fault Refusal :=
  match locate s.cfg addr width with
  | .ok .cmd => readCmdPort s fun w => .bytes (laneBytes s.cfg.portByteOrder w)
  | .ok .result => readResultPort s fun w => .bytes (laneBytes s.cfg.portByteOrder w)
  | .error r => .refused r

/-- A write through the byte bus. -/
def busWritePort (s : State) (addr : Nat) (bytes : List Byte) : Host.Outcome State Fault Refusal :=
  match locate s.cfg addr bytes.length with
  | .ok .cmd => command (laneWord s.cfg.portByteOrder bytes) s
  | .ok .result => .next s
  | .error r => .refused r

/-- One access of the host (R54, R56). -/
def serve (a : Access) (s : State) : Host.Outcome State Fault Refusal :=
  match a with
  | .writeCmd w => command w s
  | .readCmd => readCmdPort s .word
  | .readResult => readResultPort s .word
  | .writeResult _ => .next s
  | .busRead addr width => busReadPort s addr width
  | .busWrite addr bytes => busWritePort s addr bytes

/-- Serve the oldest access of the host; with none, the block waits and nothing changes (R57, R265; log entry 4). -/
def serveNext (s : State) : Host.Outcome State Fault Refusal :=
  whenReady s
    (match s.pending with
    | [] => .next s
    | a :: rest => serve a (s.setPending rest))

/-- One command word from the host, served at once (the step of R240 as a function of the state and one word). -/
def deliver (w : Word) (s : State) : Host.Outcome State Fault Refusal := whenReady s (command w s)

/-- The state the block is left in by an outcome: the next state, or the old one with the fault recorded and nothing of
the faulting command visible (R240, R242). -/
def leftIn (s : State) (o : Host.Outcome State Fault Refusal) : State :=
  match o with
  | .next t => t
  | .fault r => (s.setPending s.pending.tail).setFault r
  | .refused _ => s

end Sys2Proof.Machine
end

