-- ==== Sys2Proof/Machine/Step.lean ====
section
/-! DEFINITION. One step of the block: it serves the oldest port access of the host (R8, R57). -/

namespace Sys2Proof.Machine

/-- One step. -/
def step (s : State) : Host.Outcome State Fault Refusal := serveNext s

/-- The state after one step, the fault recorded where the step faults (R240). -/
def State.afterStep (s : State) : State := leftIn s (step s)

/-- The state in which the host's next access writes the command word of a table row (log entries 3, 21). -/
def State.withFetchWord (s : State) (nbits w : Nat) : State :=
  s.setPending (.writeCmd (BitVec.ofNat 16 (w % 2 ^ nbits)) :: s.pending)

end Sys2Proof.Machine
end

