-- ==== Sys2Proof/Machine/Assembler.lean ====
section
/-! DEFINITION. The assembler text form of a command (30_encoding R84) and the pseudo-instructions (R85). Text is a list of
characters, so that the kernel can evaluate it. -/

namespace Sys2Proof.Machine

/-- A line of assembly after parsing: the forms of R84 with operands as written, and the pseudo-instructions of R85. -/
inductive AsmCommand where
  | nop
  | ladSet (sample : Nat)
  | ladPressed (btn : Nat)
  | ladClicked (btn : Nat)
  | lpfStep (a setpoint : Nat)
  | lpfGet
  | oscSample (speed : Nat)
  | hornPlay (id : Nat)
  | hornTick
  | word (w : Nat)
  | lpfFast (setpoint : Nat)
  | lpfMed (setpoint : Nat)
  | lpfSlow (setpoint : Nat)
  | oscSilence
  | hornDouble
  | hornSingle
  deriving DecidableEq, Repr

/-- Why the assembler refuses a line. -/
inductive AsmError where
  /-- No form of R84 or R85 has this mnemonic. -/
  | unknownMnemonic
  /-- The form takes another number of operands. -/
  | wrongOperands
  /-- An operand is neither a number nor a button name where one may stand. -/
  | badOperand
  /-- An operand is out of its field's range. -/
  | outOfRange
  deriving DecidableEq, Repr

/-- Every operand is within its field's range; the button value 3 is refused (R84). -/
def asmInRange : AsmCommand → Bool
  | .nop => true
  | .ladSet n => decide (n ≤ 255)
  | .ladPressed b => decide (b ≤ 2)
  | .ladClicked b => decide (b ≤ 2)
  | .lpfStep a n => decide (a ≤ 15) && decide (n ≤ 255)
  | .lpfGet => true
  | .oscSample n => decide (n ≤ 255)
  | .hornPlay n => decide (n ≤ 255)
  | .hornTick => true
  | .word n => decide (n ≤ 65535)
  | .lpfFast n => decide (n ≤ 255)
  | .lpfMed n => decide (n ≤ 255)
  | .lpfSlow n => decide (n ≤ 255)
  | .oscSilence => true
  | .hornDouble => true
  | .hornSingle => true

/-- The word of a parsed line, the host parameters substituted (R84, R85). -/
def asmWord (p : HostParams) : AsmCommand → Word
  | .nop => encode .nop
  | .ladSet n => encode (.ladSet (BitVec.ofNat 8 n))
  | .ladPressed b => encode (.ladPressed (BitVec.ofNat 2 b))
  | .ladClicked b => encode (.ladClicked (BitVec.ofNat 2 b))
  | .lpfStep a n => encode (.lpfStep (BitVec.ofNat 4 a) (BitVec.ofNat 8 n))
  | .lpfGet => encode .lpfGet
  | .oscSample n => encode (.oscSample (BitVec.ofNat 8 n))
  | .hornPlay n => encode (.hornPlay (BitVec.ofNat 8 n))
  | .hornTick => encode .hornTick
  | .word n => BitVec.ofNat 16 n
  | .lpfFast n => encode (.lpfStep p.aFast (BitVec.ofNat 8 n))
  | .lpfMed n => encode (.lpfStep p.aMed (BitVec.ofNat 8 n))
  | .lpfSlow n => encode (.lpfStep p.aSlow (BitVec.ofNat 8 n))
  | .oscSilence => encode (.oscSample 0#8)
  | .hornDouble => encode (.hornPlay p.songDouble)
  | .hornSingle => encode (.hornPlay p.songSingle)

/-- A blank between the parts of a line. DESIGN CHOICE: a space or a tab, which R84 leaves open (log entry 14). -/
def isBlank (c : Char) : Bool := c == ' ' || c == '\t'

/-- The text without blanks at either end. -/
def trimBlanks (t : List Char) : List Char := ((t.dropWhile isBlank).reverse.dropWhile isBlank).reverse

/-- The parts of the text between commas. -/
def splitCommas : List Char → List (List Char)
  | [] => [[]]
  | c :: t =>
    match splitCommas t with
    | [] => [[c]]
    | p :: ps => if c = ',' then [] :: p :: ps else (c :: p) :: ps

/-- The value of a digit, decimal or hexadecimal. DESIGN CHOICE: the digits a to f and A to F alike, since R84 is silent on
their case (log entry 14). -/
def digitValue (c : Char) : Nat :=
  if '0' ≤ c ∧ c ≤ '9' then c.toNat - 48
  else if 'a' ≤ c ∧ c ≤ 'f' then c.toNat - 87
  else if 'A' ≤ c ∧ c ≤ 'F' then c.toNat - 55
  else 16

/-- A number in the given base. -/
def parseDigits (base : Nat) (t : List Char) : Option Nat :=
  if t.isEmpty then none
  else if t.all fun c => decide (digitValue c < base) then some (t.foldl (fun n c => n * base + digitValue c) 0)
  else none

/-- A number: decimal, or hexadecimal after 0x (R84). -/
def parseNumber (t : List Char) : Option Nat :=
  match t with
  | '0' :: 'x' :: h => parseDigits 16 h
  | _ => parseDigits 10 t

/-- A button operand: a number or one of the names of R84. -/
def parseButton (t : List Char) : Option Nat :=
  if t = ['A'] ∨ t = ['O', 'N'] then some 0
  else if t = ['B'] ∨ t = ['S', 'T', 'A', 'R', 'T'] then some 1
  else if t = ['C'] ∨ t = ['H', 'O', 'R', 'N'] then some 2
  else parseNumber t

/-- A form without operands. -/
def form0 (c : AsmCommand) (ops : List (List Char)) : Except AsmError AsmCommand :=
  match ops with
  | [] => .ok c
  | _ => .error .wrongOperands

/-- A form with one operand. -/
def form1 (read : List Char → Option Nat) (mk : Nat → AsmCommand) (ops : List (List Char)) : Except AsmError AsmCommand :=
  match ops with
  | [t] =>
    match read t with
    | some n => .ok (mk n)
    | none => .error .badOperand
  | _ => .error .wrongOperands

/-- A form with two operands. -/
def form2 (mk : Nat → Nat → AsmCommand) (ops : List (List Char)) : Except AsmError AsmCommand :=
  match ops with
  | [t, u] =>
    match parseNumber t, parseNumber u with
    | some m, some n => .ok (mk m n)
    | _, _ => .error .badOperand
  | _ => .error .wrongOperands

/-- The form a mnemonic in capitals names, with its operands (R84, R85). -/
def parseForm (m : List Char) (ops : List (List Char)) : Except AsmError AsmCommand :=
  if m = "NOP".toList then form0 .nop ops
  else if m = "LAD.SET".toList then form1 parseNumber .ladSet ops
  else if m = "LAD.PRESSED".toList then form1 parseButton .ladPressed ops
  else if m = "LAD.CLICKED".toList then form1 parseButton .ladClicked ops
  else if m = "LPF.STEP".toList then form2 .lpfStep ops
  else if m = "LPF.GET".toList then form0 .lpfGet ops
  else if m = "OSC.SAMPLE".toList then form1 parseNumber .oscSample ops
  else if m = "HORN.PLAY".toList then form1 parseNumber .hornPlay ops
  else if m = "HORN.TICK".toList then form0 .hornTick ops
  else if m = ".WORD".toList then form1 parseNumber .word ops
  else if m = "LPF.FAST".toList then form1 parseNumber .lpfFast ops
  else if m = "LPF.MED".toList then form1 parseNumber .lpfMed ops
  else if m = "LPF.SLOW".toList then form1 parseNumber .lpfSlow ops
  else if m = "OSC.SILENCE".toList then form0 .oscSilence ops
  else if m = "HORN.DOUBLE".toList then form0 .hornDouble ops
  else if m = "HORN.SINGLE".toList then form0 .hornSingle ops
  else .error .unknownMnemonic

/-- One parsed line: none where it is blank or only a comment (R84). DESIGN CHOICE: blanks part the mnemonic from its operands
and may lead, trail and stand around commas (log entry 14). -/
def parseLine (line : List Char) : Except AsmError (Option AsmCommand) :=
  let body := trimBlanks (line.takeWhile fun c => c != ';')
  if body.isEmpty then .ok none
  else
    let m := (body.takeWhile fun c => !isBlank c).map Char.toUpper
    let rest := trimBlanks (body.dropWhile fun c => !isBlank c)
    let ops := if rest.isEmpty then [] else (splitCommas rest).map trimBlanks
    match parseForm m ops with
    | .ok c => .ok (some c)
    | .error e => .error e

/-- The word a line assembles to: none for a blank line; refused where an operand is out of range (R84). -/
def assembleLine (p : HostParams) (line : List Char) : Except AsmError (Option Word) :=
  match parseLine line with
  | .ok none => .ok none
  | .ok (some c) => if asmInRange c then .ok (some (asmWord p c)) else .error .outOfRange
  | .error e => .error e

end Sys2Proof.Machine
end

