-- ==== Sys2Proof/Machine/Controller.lean ====
section
/-! DEFINITION. The surrounding software that drives the block (48_host_controller). None of it is part of the block
(00_scope R6): its state is beside the block's State, and it reaches the block only by issuing commands. A configuration or
host parameters that break a constraint are refused by every procedure that a rule names (R264, U17): `whenHostValid`. The
other definitions are parts of those procedures. -/

namespace Sys2Proof.Machine

/-- The engine's status (R201). -/
inductive EngineStatus where
  | off
  | cranking
  | running
  deriving DecidableEq, Repr

/-- The ignition position (R201). -/
inductive Ignition where
  | off
  | on
  | start
  deriving DecidableEq, Repr

/-- EngineState (R201). -/
structure Engine where
  status : EngineStatus
  sp : Byte
  ign : Ignition
  crank : Nat
  hornCnt : Nat
  blink : Nat
  deriving DecidableEq, Repr

/-- The host's state beside the block: its parameters, EngineState, and the main loop's variables and outputs (R221). -/
structure System where
  par : HostParams
  eng : Engine
  sampleDue : Bool
  div : Nat
  curSpeed : Byte
  audioOut : Byte
  light : Bool
  pwmDuty : Nat
  block : State
  deriving DecidableEq, Repr

/-- The outcome of a host procedure: the system goes on, or the block stopped it. -/
abbrev HostOutcome := Host.Outcome System Fault Refusal

/-- What must hold before the host's program runs: a configuration of this block that keeps R9, and host parameters that
keep R200 (R264, U17; log entry 24). -/
def whenHostValid (p : HostParams) (c : Config) (k : Host.Outcome α Fault Refusal) : Host.Outcome α Fault Refusal :=
  if c.Valid then
    if p.Valid c then k else .refused .invalidHostParameters
  else .refused .invalidConfiguration

/-- The host and the block with every field zero or idle (R201, R263), the outputs off (log entry 15). -/
def idleSystem (p : HostParams) (c : Config) : System where
  par := p
  eng := { status := .off, sp := 0#8, ign := .off, crank := 0, hornCnt := 0, blink := 0 }
  sampleDue := false
  div := 0
  curSpeed := 0#8
  audioOut := 0#8
  light := false
  pwmDuty := 0
  block := State.resetWith c

/-- Host reset (R201, R263). -/
def systemReset (p : HostParams) (c : Config) : HostOutcome := whenHostValid p c (.next (idleSystem p c))

/-- A host procedure on a system whose parameters are those of this block and its host (R264, U17). -/
def runHost (sys : System) (k : HostOutcome) : HostOutcome := whenHostValid sys.par sys.block.cfg k

/-- Issue one command to the block. -/
def issue (i : Instr) (sys : System) : HostOutcome :=
  andThen (deliver (encode i) sys.block) fun b => .next { sys with block := b }

/-- The host's read of RESULT bits 7..0 (R206, R221). -/
def readResult8 (sys : System) : Byte := sys.block.result.extractLsb' 0 8

/-- `setSpeedSetpoint(raw)`: clamped to [IDLE, MAX] while RUNNING, otherwise no effect (R203). -/
def setSpeedSetpoint (raw : Byte) (sys : System) : HostOutcome :=
  runHost sys
    (match sys.eng.status with
    | .running =>
      let v := clamp (raw.toNat : Int) (sys.par.idle.toNat : Int) (sys.par.max.toNat : Int)
      .next { sys with eng := { sys.eng with sp := BitVec.ofInt 8 v } }
    | .off => .next sys
    | .cranking => .next sys)

/-- `setIgnitionPosition(pos)` (R204). -/
def setIgnitionPosition (pos : Ignition) (sys : System) : HostOutcome :=
  runHost sys (.next { sys with eng := { sys.eng with ign := pos } })

/-- `playHornSong(id)`: issues nothing while the ignition is OFF (R205). -/
def playHornSong (id : Byte) (sys : System) : HostOutcome :=
  runHost sys (if sys.eng.ign = .off then .next sys else issue (.hornPlay id) sys)

/-- `getSpeed()`: issue LPF.GET and take RESULT (R206). -/
def getSpeed (sys : System) (k : Byte → System → HostOutcome) : HostOutcome :=
  runHost sys (andThen (issue .lpfGet sys) fun t => k (readResult8 t) t)

/-- Horn timing of a RUNNING tick at effects speed, after the filter step (R210). -/
def hornTiming (sys : System) : HostOutcome :=
  let n := sys.eng.hornCnt + 1
  let t := { sys with eng := { sys.eng with hornCnt := n } }
  if n = sys.par.hornCycle / 2 then playHornSong sys.par.songDouble t
  else if n = sys.par.hornCycle then
    andThen (playHornSong sys.par.songSingle t) fun u => .next { u with eng := { u.eng with hornCnt := 0 } }
  else .next t

/-- The blink counter of a RUNNING tick (R210). -/
def blinkTick (sys : System) : System :=
  { sys with eng := { sys.eng with blink := (sys.eng.blink + 1) % sys.par.blinkLen } }

/-- `update()` while OFF (R210). -/
def updateOff (sys : System) : HostOutcome :=
  if sys.eng.ign = .start then
    .next { sys with eng := { sys.eng with status := .cranking, sp := sys.par.crankSpeed, crank := 0 } }
  else issue (.lpfStep sys.par.aFast sys.eng.sp) sys

/-- EngineState after the counting and the transition of a CRANKING tick (R210). -/
def crankEngine (p : HostParams) (e : Engine) : Engine :=
  let n := e.crank + 1
  if p.minCrankTicks < n then { e with status := .running, sp := p.idle, crank := n, hornCnt := 0, blink := 0 }
  else if e.ign ≠ .start then { e with status := .off, sp := 0#8, crank := n }
  else { e with crank := n }

/-- `update()` while CRANKING: the filter step takes the new setpoint (R210). -/
def updateCranking (sys : System) : HostOutcome :=
  let t := { sys with eng := crankEngine sys.par sys.eng }
  issue (.lpfStep t.par.aMed t.eng.sp) t

/-- `update()` while RUNNING (R210). -/
def updateRunning (sys : System) : HostOutcome :=
  if sys.eng.ign = .off then .next { sys with eng := { sys.eng with status := .off, sp := 0#8 } }
  else
    getSpeed sys fun v t =>
      andThen
        (if t.par.effects ≤ v then andThen (issue (.lpfStep t.par.aSlow t.eng.sp) t) hornTiming
        else issue (.lpfStep t.par.aMed t.eng.sp) t)
        fun u => .next (blinkTick u)

/-- `ledOn()`, evaluated left to right: the speed is read only while RUNNING (R212, log entry 16). -/
def ledOn (sys : System) : HostOutcome :=
  runHost sys
    (if sys.eng.status = .running then
      getSpeed sys fun v t =>
        .next { t with light := decide (t.par.effects ≤ v ∧ t.eng.blink < t.par.blinkLen / 2 ∧ t.eng.blink % 2 = 1) }
    else .next { sys with light := false })

/-- The part of `update()` before the light (R210). -/
def updateEngine (sys : System) : HostOutcome :=
  match sys.eng.status with
  | .off => updateOff sys
  | .cranking => updateCranking sys
  | .running => updateRunning sys

/-- `update() -> ledOn`: one model tick (R210, R212). -/
def update (sys : System) : HostOutcome := runHost sys (andThen (updateEngine sys) ledOn)

/-- The formula of R213. Its subtraction is never negative under valid parameters. -/
def dutyValue (p : HostParams) (v : Byte) : Nat :=
  if v < p.effects then 0
  else min (p.minDuty.toNat + ((v.toNat - p.idle.toNat) >>> 1)) p.maxDuty.toNat

/-- `duty(v)`: motor duty at public speed `v` (R213). -/
def duty (p : HostParams) (c : Config) (v : Byte) : Host.Outcome Nat Fault Refusal :=
  whenHostValid p c (.next (dutyValue p v))

/-- The open parameter HOST_INPUT_MAP: what the host does with the throttle sample and the buttons (R214). -/
abbrev InputMap := Byte → System → HostOutcome

/-- Query one button and go on with its RESULT bit. -/
def queryBit (i : Instr) (sys : System) (k : Bool → System → HostOutcome) : HostOutcome :=
  andThen (issue i sys) fun t => k (decide (readResult8 t = 1#8)) t

/-- The reference HOST_INPUT_MAP, in the order R214 lists it (log entry 17). -/
def referenceInputMap : InputMap := fun throttle sys =>
  queryBit (.ladPressed 1#2) sys fun b t =>
    queryBit (.ladPressed 0#2) t fun a u =>
      andThen (setIgnitionPosition (if b then .start else if a then .on else .off) u) fun w =>
        queryBit (.ladClicked 2#2) w fun c x =>
          andThen (if c then playHornSong x.par.songSingle x else .next x) (setSpeedSetpoint throttle)

/-- The 8 kHz callback as far as it concerns the main loop: it sets `sampleDue` (R220). -/
def audioCallback (sys : System) : HostOutcome := runHost sys (.next { sys with sampleDue := true })

/-- The slow work of the main loop, once every N_DIV passes (R221). -/
def modelTick (map : InputMap) (throttle ladder : Byte) (sys : System) : HostOutcome :=
  andThen (issue (.ladSet ladder) sys) fun t =>
    andThen (map throttle t) fun u =>
      andThen (update u) fun w =>
        andThen (issue .hornTick w) fun x =>
          getSpeed x fun v z =>
            andThen (duty z.par z.block.cfg v) fun d => .next { z with curSpeed := v, pwmDuty := d }

/-- One pass of the main loop: it waits while no sample is due; then the sample, then every N_DIV passes the slow work,
with the analog inputs as they stand (R221, R222). -/
def mainPass (map : InputMap) (throttle ladder : Byte) (sys : System) : HostOutcome :=
  runHost sys
    (if sys.sampleDue then
      andThen (issue (.oscSample sys.curSpeed) { sys with sampleDue := false }) fun t =>
        let u := { t with audioOut := readResult8 t, div := t.div + 1 }
        if u.div = u.par.nDiv then modelTick map throttle ladder { u with div := 0 } else .next u
    else .next sys)

end Sys2Proof.Machine
end

