-- ==== Sys2Proof/WellFormed.lean ====
section
/-! DEFINITION. Which commands are well formed. Every operand fills its field exactly (R71), so the one check left is
the button id of the two LAD queries: id 3 names no button (R73, R77), and the assembler refuses it (R84).
A command that is not well formed still has an encoding, decodes, and faults when executed. -/

namespace Sys2Proof

/-- The ids 0, 1 and 2 name the buttons A, B and C; the id 3 names none (R73, R104). -/
def namesButton (btn : BitVec 2) : Bool := btn != 3#2

/-- A command whose button operand, where it has one, names a button. -/
def Instr.wellFormed : Instr → Bool
  | .nop => true
  | .ladSet _ => true
  | .ladPressed btn => namesButton btn
  | .ladClicked btn => namesButton btn
  | .lpfStep _ _ => true
  | .lpfGet => true
  | .oscSample _ => true
  | .hornPlay _ => true
  | .hornTick => true

end Sys2Proof
end

