-- ==== Sys2Proof/Safety.lean ====
section
/-! DEFINITION. What claims about the block are stated in: the invariants of 10_state R41, the end of a run
(70_reset_and_hazards R265), runs of commands (20_memory R57), the edges
and the phases of a run (40_ladder R108, 42_oscillator R147), and the host's invariants (48_host_controller R202, R211). -/

namespace Sys2Proof.Machine

/-- The invariants of R41, and the configuration's constraints (R264). -/
structure State.Inv (s : State) : Prop where
  cfg : s.cfg.Valid
  y : s.y < 2 ^ s.cfg.wF
  phE : s.phE < s.cfg.lE
  phH : s.phH < s.cfg.lH
  buf : s.buf.length = s.cfg.maxSongLen
  nidx : s.nidx ≤ s.slen
  slen : s.slen.toNat ≤ s.cfg.maxSongLen
  playing : s.playing = true → s.nidx < s.slen
  ncnt : s.ncnt.toNat < s.cfg.durRest
  idle : s.playing = false → s.ncnt = 0#8
  hinc : s.hinc = if s.playing = true then noteIncOf s.cfg (entry s.buf s.nidx.toNat) else 0
  pressed : ∃ v : Byte, s.pressed = bandMask s.cfg v.toNat
  result : s.result.toNat < 256

/-- What must hold before the block's rules apply to a step: the configuration is one of this block (R264), and no fault is
recorded (R242). -/
abbrev State.Ready (s : State) : Prop := s.cfg.Valid ∧ s.fault = none

/-- The configuration keeps R9 and the host parameters keep R200, as the host's program needs (R264, U17). -/
abbrev System.Valid (sys : System) : Prop := sys.block.cfg.Valid ∧ sys.par.Valid sys.block.cfg

/-- The run has ended normally: the host has issued its last command and no fault is recorded (R265). DESIGN CHOICE: the
run of R265 holds command words only, and here it ends when every queued access of the host is served, reads of RESULT and
other accesses that are no command too, so that a refused bus access left in the queue bars a normal end (log entry 25). -/
def State.endedNormally (s : State) : Bool := s.pending.isEmpty && s.fault.isNone

/-- The commands one after the other, each on the state the one before left; the run stops at the first that does not
answer a next state (R57, R242). -/
def runInstrs : List Instr → State → Host.Outcome State Fault Refusal
  | [], s => .next s
  | i :: is, s => andThen (exec i s) (runInstrs is)

/-- The state of an outcome that is a next state. -/
def nextState? (o : Host.Outcome α Fault Refusal) : Option α :=
  match o with
  | .next t => some t
  | _ => none

/-- The fault of an outcome that is one. -/
def faultOf? (o : Host.Outcome α Fault Refusal) : Option Fault :=
  match o with
  | .fault r => some r
  | _ => none

/-- The refusal of an outcome that is one. -/
def refusalOf? (o : Host.Outcome α Fault Refusal) : Option Refusal :=
  match o with
  | .refused r => some r
  | _ => none

/-- The command is a LAD.SET that raises button `b` in state `s` (R102, R108). -/
def raises (b : Nat) (i : Instr) (s : State) : Bool :=
  match i with
  | .ladSet v => maskBit (bandMask s.cfg v.toNat) b && !maskBit s.pressed b
  | .nop => false
  | .ladPressed _ => false
  | .ladClicked _ => false
  | .lpfStep _ _ => false
  | .lpfGet => false
  | .oscSample _ => false
  | .hornPlay _ => false
  | .hornTick => false

/-- No command of the run raises button `b` (R108). -/
def neverRaises (b : Nat) : List Instr → State → Bool
  | [], _ => true
  | i :: is, s =>
    !raises b i s &&
      match exec i s with
      | .next t => neverRaises b is t
      | _ => true

/-- The command word an access of the host carries to the command port, if it carries one (R50, R52). -/
def commandWord (c : Config) : Access → Option Word
  | .writeCmd w => some w
  | .busWrite addr bytes =>
    match locate c addr bytes.length with
    | .ok .cmd => some (laneWord c.portByteOrder bytes)
    | _ => none
  | .readCmd => none
  | .readResult => none
  | .writeResult _ => none
  | .busRead _ _ => none

/-- The engine speed of an OSC.SAMPLE, none for another command. -/
def oscOperand : Instr → Option Byte
  | .oscSample v => some v
  | .nop => none
  | .ladSet _ => none
  | .ladPressed _ => none
  | .ladClicked _ => none
  | .lpfStep _ _ => none
  | .lpfGet => none
  | .hornPlay _ => none
  | .hornTick => none

/-- The engine phase after OSC.SAMPLE commands with these operands, by R141 alone. -/
def enginePhaseAfter (c : Config) (ph : Nat) (vs : List Byte) : Nat :=
  vs.foldl (fun q v => if v = 0#8 then 0 else (q + v.toNat / 2 ^ c.engShift) % c.lE) ph

/-- The horn phase after sounding ticks with these increments, by R142 alone. -/
def hornPhaseAfter (c : Config) (ph : Nat) (incs : List Nat) : Nat := incs.foldl (fun q inc => (q + inc) % c.lH) ph

/-- The increments of the sounding ticks of a run: its OSC.SAMPLE commands while a song plays a note that is no rest. -/
def soundingIncrements : List Instr → State → List Nat
  | [], _ => []
  | i :: is, s =>
    (if (oscOperand i).isSome = true ∧ s.playing = true ∧ s.hinc ≠ 0 then [s.hinc] else []) ++
      match exec i s with
      | .next t => soundingIncrements is t
      | _ => []

/-- The LPF.STEP command with these operands, `n` times. -/
def lpfRun (n : Nat) (a : BitVec 4) (sp : Byte) (s : State) : Host.Outcome State Fault Refusal :=
  runInstrs (List.replicate n (.lpfStep a sp)) s

/-- HORN.PLAY and then `m` HORN.TICK commands. -/
def songRun (id : Byte) (m : Nat) (s : State) : Host.Outcome State Fault Refusal :=
  runInstrs (.hornPlay id :: List.replicate m .hornTick) s

/-- HORN.TICK counts from the start of a song to the start of its note `k` (R176). -/
def ticksBefore (c : Config) (notes : List Byte) (k : Nat) : Nat := ((notes.take k).map (noteDur c)).sum

/-- How many of the 65536 words satisfy `p`. -/
def countWords (p : Word → Bool) : Nat := (List.range 65536).countP fun n => p (BitVec.ofNat 16 n)

/-- `n` model ticks of the host's `update()` (R210). -/
def updates : Nat → System → HostOutcome
  | 0, sys => .next sys
  | n + 1, sys => andThen (update sys) (updates n)

/-- The host's setpoint invariant (R202). -/
def setpointInv (sys : System) : Prop :=
  match sys.eng.status with
  | .off => sys.eng.sp = 0#8
  | .cranking => sys.eng.sp = sys.par.crankSpeed
  | .running => sys.par.idle ≤ sys.eng.sp ∧ sys.eng.sp ≤ sys.par.max

/-- The host's counter bounds (R211). -/
def counterInv (sys : System) : Prop :=
  sys.eng.crank ≤ sys.par.minCrankTicks + 1 ∧
  (sys.eng.status = .cranking → sys.eng.crank ≤ sys.par.minCrankTicks) ∧
  sys.eng.hornCnt < sys.par.hornCycle ∧
  sys.eng.blink < sys.par.blinkLen

end Sys2Proof.Machine
end

