-- ==== Sys2Proof/Certificates/Slice0/Obligations.lean ====
section
/-! DEFINITION. The statements about the block, from the spec's numbered rules; OBLIGATIONS.json lists them in this order. -/

open Sys2Proof Sys2Proof.Machine

/-! Encoding (30_encoding). -/

/-- R71, R72: a command's word decodes to that command, with every operand at every value. -/
def Obligations.DecodeOfEncodeIsCommand : Prop := ∀ i : Instr, decode (encode i) = .ok i

/-- R70, R71: a command has one word: a word that decodes to a command is that command's word. -/
def Obligations.DecodedWordIsEncoding : Prop := ∀ (w : Word) (i : Instr), decode w = .ok i → encode i = w

/-- R74: the opcode map, row by row: the word is the listed command, with its fields as operands, exactly when it matches
the row; and a word that matches no row is ILLEGAL. -/
def Obligations.OpcodeMapDecodes : Prop :=
  ∀ w : Word,
    (w &&& 0xFFFF#16 = 0x0000#16 ↔ decode w = .ok .nop) ∧
    (w &&& 0xFF00#16 = 0x1000#16 ↔ decode w = .ok (.ladSet (w.extractLsb' 0 8))) ∧
    (w &&& 0xFFFC#16 = 0x2000#16 ↔ decode w = .ok (.ladPressed (w.extractLsb' 0 2))) ∧
    (w &&& 0xFFFC#16 = 0x3000#16 ↔ decode w = .ok (.ladClicked (w.extractLsb' 0 2))) ∧
    (w &&& 0xF000#16 = 0x4000#16 ↔ decode w = .ok (.lpfStep (w.extractLsb' 8 4) (w.extractLsb' 0 8))) ∧
    (w &&& 0xFFFF#16 = 0x5000#16 ↔ decode w = .ok .lpfGet) ∧
    (w &&& 0xFF00#16 = 0x6000#16 ↔ decode w = .ok (.oscSample (w.extractLsb' 0 8))) ∧
    (w &&& 0xFF00#16 = 0x7000#16 ↔ decode w = .ok (.hornPlay (w.extractLsb' 0 8))) ∧
    (w &&& 0xFFFF#16 = 0x8000#16 ↔ decode w = .ok .hornTick) ∧
    (∀ r ∈ opcodeTable, ∀ r' ∈ opcodeTable, w &&& r.mask = r.bits → w &&& r'.mask = r'.bits → r = r') ∧
    ((∀ r ∈ opcodeTable, w &&& r.mask ≠ r.bits) → ∃ e, decode w = .error e)

/-- R72: the decode function in the order it decides, and the fault of an ILLEGAL word at the command port. -/
def Obligations.DecodeDecidesInOrder : Prop :=
  ∀ w : Word,
    (9 ≤ (w.extractLsb' 12 4).toNat → decode w = .error .reservedOpcode) ∧
    ((w.extractLsb' 12 4).toNat ∈ [0, 5, 8] → w.extractLsb' 0 12 ≠ 0#12 → decode w = .error .reservedBits) ∧
    ((w.extractLsb' 12 4).toNat ∈ [1, 6, 7] → w.extractLsb' 8 4 ≠ 0#4 → decode w = .error .reservedBits) ∧
    ((w.extractLsb' 12 4).toNat ∈ [2, 3] → w.extractLsb' 2 10 ≠ 0#10 → decode w = .error .reservedBits) ∧
    (∀ i, decode w = .ok i → encode i = w) ∧
    ((w.extractLsb' 12 4).toNat = 4 → ∃ i, decode w = .ok i) ∧
    ((w.extractLsb' 12 4).toNat ∈ [0, 5, 8] → w.extractLsb' 0 12 = 0#12 → ∃ i, decode w = .ok i) ∧
    ((w.extractLsb' 12 4).toNat ∈ [1, 6, 7] → w.extractLsb' 8 4 = 0#4 → ∃ i, decode w = .ok i) ∧
    ((w.extractLsb' 12 4).toNat ∈ [2, 3] → w.extractLsb' 2 10 = 0#10 → ∃ i, decode w = .ok i) ∧
    (∀ (e : Illegal) (s : State) (rest : List Access), decode w = .error e → s.Ready → s.pending = .writeCmd w :: rest →
      step s = .fault (.illegalCmd w))

/-- R75: the opcodes 9 to 15 are reserved, 28672 words, and each faults ILLEGAL_CMD at the command port. -/
def Obligations.ReservedOpcodesFault : Prop :=
  (∀ (w : Word) (s : State) (rest : List Access), 0x9000#16 ≤ w → s.Ready → s.pending = .writeCmd w :: rest →
    step s = .fault (.illegalCmd w)) ∧
  countWords (fun w => decide (0x9000#16 ≤ w)) = 28672

/-- R76: the words with a defined opcode and a reserved-zero bit set, range by range, and the counts of the whole word
space: 60661 illegal (31989 of them with a defined opcode), 2 that decode and fault BAD_BUTTON, 4873 that execute. -/
def Obligations.ReservedBitWordsCounted : Prop :=
  (∀ w : Word, decode w = .error .reservedBits ↔
    (0x0001#16 ≤ w ∧ w ≤ 0x0FFF#16) ∨ (0x5001#16 ≤ w ∧ w ≤ 0x5FFF#16) ∨ (0x8001#16 ≤ w ∧ w ≤ 0x8FFF#16) ∨
    (0x1100#16 ≤ w ∧ w ≤ 0x1FFF#16) ∨ (0x6100#16 ≤ w ∧ w ≤ 0x6FFF#16) ∨ (0x7100#16 ≤ w ∧ w ≤ 0x7FFF#16) ∨
    (0x2004#16 ≤ w ∧ w ≤ 0x2FFF#16) ∨ (0x3004#16 ≤ w ∧ w ≤ 0x3FFF#16)) ∧
  (∀ (w : Word) (s : State) (rest : List Access), decode w = .error .reservedBits → s.Ready →
    s.pending = .writeCmd w :: rest → step s = .fault (.illegalCmd w)) ∧
  (∀ (w : Word) (s : State) (rest : List Access), w = 0x2003#16 ∨ w = 0x3003#16 → s.Ready →
    s.pending = .writeCmd w :: rest → step s = .fault (.badButton w)) ∧
  (∀ (w : Word) (i : Instr) (s : State) (rest : List Access), decode w = .ok i → i.wellFormed = true → s.Ready →
    s.pending = .writeCmd w :: rest → ∃ t, step s = .next t) ∧
  countWords (fun w => decide (decode w = .error .reservedBits)) = 31989 ∧
  countWords (fun w => decide (decode w = .error .reservedBits ∨ decode w = .error .reservedOpcode)) = 60661 ∧
  countWords (fun w => decide (w = 0x2003#16 ∨ w = 0x3003#16)) = 2 ∧
  countWords (fun w => match decode w with | .ok i => i.wellFormed | .error _ => false) = 4873

/-- R86: the words the assembler gives for the spec's lines, and what they decode to. -/
def Obligations.AssemblerExampleWords : Prop :=
  ∀ p : HostParams,
    assembleLine p "LAD.SET 60".toList = .ok (some 0x103C#16) ∧
    assembleLine p "LAD.CLICKED ON".toList = .ok (some 0x3000#16) ∧
    assembleLine p "LAD.PRESSED START".toList = .ok (some 0x2001#16) ∧
    assembleLine p "LPF.STEP 3, 64".toList = .ok (some 0x4340#16) ∧
    assembleLine p "LPF.GET".toList = .ok (some 0x5000#16) ∧
    assembleLine p "OSC.SAMPLE 0".toList = .ok (some 0x6000#16) ∧
    assembleLine p "OSC.SAMPLE 200".toList = .ok (some 0x60C8#16) ∧
    assembleLine p "HORN.PLAY 1".toList = .ok (some 0x7001#16) ∧
    assembleLine p "HORN.TICK".toList = .ok (some 0x8000#16) ∧
    assembleLine p "NOP".toList = .ok (some 0x0000#16) ∧
    decode 0x103C#16 = .ok (.ladSet 60#8) ∧ decode 0x3000#16 = .ok (.ladClicked 0#2) ∧
    decode 0x2001#16 = .ok (.ladPressed 1#2) ∧ decode 0x4340#16 = .ok (.lpfStep 3#4 64#8) ∧
    decode 0x60C8#16 = .ok (.oscSample 200#8) ∧ decode 0x7001#16 = .ok (.hornPlay 1#8) ∧
    decode 0x6000#16 = .ok (.oscSample 0#8) ∧ decode 0x5000#16 = .ok .lpfGet ∧ decode 0x8000#16 = .ok .hornTick ∧
    decode 0x0000#16 = .ok .nop

/-- R84: what the assembler accepts other than a raw word is a well-formed command; a sample, speed, song id or setpoint is
accepted up to 255, a shift up to 15 and a button up to 2, and refused above. That `.word` is refused above 65535 and that
the refusal is named `outOfRange` are the model's choice (log entry 14). -/
def Obligations.AssembledCommandsAreWellFormed : Prop :=
  ∀ p : HostParams,
    (∀ c : AsmCommand,
      (asmInRange c = true → (∀ w, c ≠ .word w) → ∃ i, decode (asmWord p c) = .ok i ∧ i.wellFormed = true) ∧
      (∀ line : List Char, parseLine line = .ok (some c) →
        (asmInRange c = true → assembleLine p line = .ok (some (asmWord p c))) ∧
        (asmInRange c = false → assembleLine p line = .error .outOfRange))) ∧
    (∀ (form : Nat → AsmCommand) (command : Byte → Instr),
      (form = .ladSet ∧ command = .ladSet) ∨ (form = .oscSample ∧ command = .oscSample) ∨
      (form = .hornPlay ∧ command = .hornPlay) ∨ (form = .lpfFast ∧ command = .lpfStep p.aFast) ∨
      (form = .lpfMed ∧ command = .lpfStep p.aMed) ∨ (form = .lpfSlow ∧ command = .lpfStep p.aSlow) →
      ∀ (line : List Char) (n : Nat), parseLine line = .ok (some (form n)) →
        (n ≤ 255 → ∃ w, assembleLine p line = .ok (some w) ∧ decode w = .ok (command (BitVec.ofNat 8 n))) ∧
        (255 < n → ∃ e, assembleLine p line = .error e)) ∧
    (∀ (form : Nat → AsmCommand) (command : BitVec 2 → Instr),
      (form = .ladPressed ∧ command = .ladPressed) ∨ (form = .ladClicked ∧ command = .ladClicked) →
      ∀ (line : List Char) (b : Nat), parseLine line = .ok (some (form b)) →
        (b ≤ 2 → ∃ w, assembleLine p line = .ok (some w) ∧ decode w = .ok (command (BitVec.ofNat 2 b))) ∧
        (2 < b → ∃ e, assembleLine p line = .error e)) ∧
    (∀ (line : List Char) (a n : Nat), parseLine line = .ok (some (.lpfStep a n)) →
      (a ≤ 15 → n ≤ 255 → ∃ w, assembleLine p line = .ok (some w) ∧
        decode w = .ok (.lpfStep (BitVec.ofNat 4 a) (BitVec.ofNat 8 n))) ∧
      (15 < a ∨ 255 < n → ∃ e, assembleLine p line = .error e))

/-- R85: each pseudo-instruction is the command of its expansion, the host parameters substituted. -/
def Obligations.PseudoInstructionsExpand : Prop :=
  ∀ (p : HostParams) (sp : Byte),
    decode (asmWord p (.lpfFast sp.toNat)) = .ok (.lpfStep p.aFast sp) ∧
    decode (asmWord p (.lpfMed sp.toNat)) = .ok (.lpfStep p.aMed sp) ∧
    decode (asmWord p (.lpfSlow sp.toNat)) = .ok (.lpfStep p.aSlow sp) ∧
    decode (asmWord p .oscSilence) = .ok (.oscSample 0#8) ∧
    decode (asmWord p .hornDouble) = .ok (.hornPlay p.songDouble) ∧
    decode (asmWord p .hornSingle) = .ok (.hornPlay p.songSingle)

/-! The step, the ports and the fault outcome (20_memory, 60_exceptions). -/

/-- R56, R70: a step on a command word runs the command it decodes to, on the state with that access taken off the queue. -/
def Obligations.StepRunsDecodedCommand : Prop :=
  ∀ (s : State) (w : Word) (rest : List Access) (i : Instr),
    s.Ready → s.pending = .writeCmd w :: rest → decode w = .ok i → step s = exec i { s with pending := rest }

/-- R57: a run over a queue of command words is the run of the commands one after the other, each seeing every effect of
the ones before, with the same outcome. -/
def Obligations.QueuedCommandsRunInIssueOrder : Prop :=
  ∀ (is : List Instr) (s : State), s.Ready → s.pending = is.map (fun i => .writeCmd (encode i)) →
    core.run is.length s = runInstrs is { s with pending := [] }

/-- The block waits while the host issues nothing (the model's choice, log entry 4, from R265 "the block never halts on its own"). -/
def Obligations.BlockWaitsForHost : Prop := ∀ s : State, s.Ready → s.pending = [] → step s = .next s

/-- From R264 a configuration that breaks a constraint is refused; that every step refuses it is the model's reading
(log entry 12). -/
def Obligations.InvalidConfigurationRefused : Prop :=
  ∀ s : State, ¬ s.cfg.Valid → step s = .refused .invalidConfiguration

/-- From R54: which port accesses have an effect, which have none, and which are refused. The model's own choices in it: what
a read gave stands in `lastRead` (log entry 6), a read of CMD numbers its value by `freeCount` (log entry 7), the reserved
offsets have no upper end (log entry 13), and accesses wider than 16 bits or of no bytes are refused like the narrower ones
(log entry 23). -/
def Obligations.PortAccessesDefinedOrRefused : Prop :=
  ∀ (s : State) (a : Access) (rest : List Access), s.Ready → s.pending = a :: rest →
    (∀ w, a = .writeResult w → step s = .next { s with pending := rest }) ∧
    (a = .readResult → step s = .next { s with pending := rest, lastRead := .word s.result }) ∧
    (a = .readCmd → ∃ v, step s = .next { s with pending := rest, lastRead := .word v, freeCount := s.freeCount + 1 }) ∧
    (a = .busRead s.cfg.portBase 2 → ∃ bs : List Byte, bs.length = 2 ∧
      step s = .next { s with pending := rest, lastRead := .bytes bs, freeCount := s.freeCount + 1 }) ∧
    (∀ addr width, a = .busRead addr width → s.cfg.portBase ≤ addr →
      (s.cfg.portBase + 4 ≤ addr ∨ width ≠ 2 ∨ addr % 2 = 1) → ∃ r, step s = .refused r) ∧
    (∀ addr bytes, a = .busWrite addr bytes → s.cfg.portBase ≤ addr →
      (s.cfg.portBase + 4 ≤ addr ∨ bytes.length ≠ 2 ∨ addr % 2 = 1) → ∃ r, step s = .refused r) ∧
    (∀ bytes : List Byte, a = .busWrite (s.cfg.portBase + 2) bytes → bytes.length = 2 → step s = .next { s with pending := rest })

/-- R52, R53: a full-width bus access at PORT_BASE or PORT_BASE + 2 is the word access of its port, the bytes in the
configured order. -/
def Obligations.BusAccessIsWordAccess : Prop :=
  ∀ (s : State) (rest : List Access) (w : Word) (lo hi : Byte), s.Ready → w = hi ++ lo →
    (s.cfg.portByteOrder = .little →
      step { s with pending := .busWrite s.cfg.portBase [lo, hi] :: rest } = step { s with pending := .writeCmd w :: rest }) ∧
    (s.cfg.portByteOrder = .big →
      step { s with pending := .busWrite s.cfg.portBase [hi, lo] :: rest } = step { s with pending := .writeCmd w :: rest }) ∧
    (s.cfg.portByteOrder = .little → s.result = w →
      step { s with pending := .busRead (s.cfg.portBase + 2) 2 :: rest } =
        .next { s with pending := rest, lastRead := .bytes [lo, hi] }) ∧
    (s.cfg.portByteOrder = .big → s.result = w →
      step { s with pending := .busRead (s.cfg.portBase + 2) 2 :: rest } =
        .next { s with pending := rest, lastRead := .bytes [hi, lo] })

/-- R241: a step faults only with a reason of the closed list, which records the whole command word: ILLEGAL_CMD exactly
for a word that decodes to ILLEGAL, BAD_BUTTON exactly for 0x2003 and 0x3003. -/
def Obligations.StepFaultReasons : Prop :=
  ∀ (s : State) (r : Fault), step s = .fault r ↔
    s.Ready ∧ ∃ a rest w, s.pending = a :: rest ∧ commandWord s.cfg a = some w ∧
      ((∃ e, decode w = .error e) ∧ r = .illegalCmd w ∧ faultCode r = 1 ∨
        (w = 0x2003#16 ∨ w = 0x3003#16) ∧ r = .badButton w ∧ faultCode r = 2)

/-- R242: faults are sticky: the fault is recorded, every later step is refused and changes nothing, such a state is no
normal end, and reset clears the fault. -/
def Obligations.FaultsAreSticky : Prop :=
  (∀ (s : State) (r : Fault), step s = .fault r → s.afterStep.fault = some r) ∧
  (∀ (s : State) (r : Fault), s.cfg.Valid → s.fault = some r →
    step s = .refused (.afterFault r) ∧ s.afterStep = s ∧ s.endedNormally = false) ∧
  (∀ c : Config, (State.resetWith c).fault = none)

/-- R240: a faulting command has no effect on the state or RESULT; only the fault is recorded. That its access leaves the
host's queue is the model's own (log entry 5). -/
def Obligations.FaultsArePrecise : Prop :=
  ∀ (s : State) (r : Fault), step s = .fault r →
    s.afterStep = { s with pending := s.pending.tail, fault := some r }

/-! Reset and the invariants (70_reset_and_hazards, 10_state). -/

/-- R260: power-on reset sets every field of the block state to zero or idle, and leaves the ROM tables. -/
def Obligations.ResetLeavesStateIdle : Prop :=
  (∀ (c : Config) (s : State), s = State.resetWith c →
    s.y = 0 ∧ s.phE = 0 ∧ s.phH = 0 ∧ s.buf.length = c.maxSongLen ∧ (∀ x ∈ s.buf, x = 0#8) ∧
    s.slen = 0#8 ∧ s.nidx = 0#8 ∧ s.ncnt = 0#8 ∧ s.hinc = 0 ∧ s.playing = false ∧
    s.pressed = 0#3 ∧ s.clicks = 0#3 ∧ s.result = 0#16 ∧ s.fault = none ∧ s.cfg = c) ∧
  ∃ c, State.reset = State.resetWith c

/-- R262: what the first commands after reset give. -/
def Obligations.ResetConsequences : Prop :=
  ∀ (c : Config) (s : State), c.Valid → s = State.resetWith c →
    (∃ t, exec .lpfGet s = .next t ∧ t.result = 0#16) ∧
    (∃ t, exec (.oscSample 0#8) s = .next t ∧ t.result = 128#16) ∧
    (∀ v, ∃ t, exec (.oscSample v) s = .next t ∧ t.result = (engineTick c v.toNat 0).2.setWidth 16) ∧
    (∀ b, b ≠ 3#2 → ∃ t, exec (.ladPressed b) s = .next t ∧ t.result = 0#16) ∧
    (∀ b, b ≠ 3#2 → ∃ t, exec (.ladClicked b) s = .next t ∧ t.result = 0#16) ∧
    exec .hornTick s = .next s ∧
    (∀ v, ∃ t, exec (.ladSet v) s = .next t ∧ t.clicks = bandMask c v.toNat ∧ t.pressed = bandMask c v.toNat ∧
      ∀ b : BitVec 2, (bandMask c v.toNat).getLsbD b.toNat = true →
        ∃ u, exec (.ladClicked b) t = .next u ∧ u.result = 1#16)

/-- The invariants of R41 hold right after reset, under every configuration of the block and so in the reset state (whose
configuration is the model's choice, log entry 1). -/
def Obligations.ResetSatisfiesInvariants : Prop := (∀ c : Config, c.Valid → (State.resetWith c).Inv) ∧ State.reset.Inv

/-- R41: every step keeps the invariants, from every state that meets them. -/
def Obligations.StepKeepsInvariants : Prop := ∀ s t : State, s.Inv → step s = .next t → t.Inv

/-! What commands write (10_state). -/

/-- The writers column of 10_state §11: a field changes only by the commands it names. -/
def Obligations.OnlyNamedCommandsWrite : Prop :=
  ∀ (i : Instr) (s t : State), exec i s = .next t →
    (t.y ≠ s.y → ∃ a sp, i = .lpfStep a sp) ∧
    (t.phE ≠ s.phE ∨ t.phH ≠ s.phH → ∃ v, i = .oscSample v) ∧
    (t.buf ≠ s.buf ∨ t.slen ≠ s.slen → ∃ id, i = .hornPlay id) ∧
    (t.nidx ≠ s.nidx ∨ t.ncnt ≠ s.ncnt ∨ t.hinc ≠ s.hinc ∨ t.playing ≠ s.playing → (∃ id, i = .hornPlay id) ∨ i = .hornTick) ∧
    (t.pressed ≠ s.pressed → ∃ v, i = .ladSet v) ∧
    (t.clicks ≠ s.clicks → (∃ v, i = .ladSet v) ∨ ∃ b, i = .ladClicked b) ∧
    (t.result ≠ s.result → (∃ b, i = .ladPressed b) ∨ (∃ b, i = .ladClicked b) ∨ i = .lpfGet ∨ ∃ v, i = .oscSample v)

/-- R35: no command writes the ROM tables or another parameter; nor does a command touch the fault record, the host's
queue or what the host last read (the model's own fields). -/
def Obligations.CommandsKeepConfiguration : Prop :=
  ∀ (i : Instr) (s t : State), exec i s = .next t →
    t.cfg = s.cfg ∧ t.fault = s.fault ∧ t.pending = s.pending ∧ t.lastRead = s.lastRead ∧ t.freeCount = s.freeCount

/-- R37: who writes RESULT and with what width, that it survives every other command, every fault and every write of the
host, as a word or over the bus, that reading it has no side effect, and its reset value. What a read gave stands in
`lastRead`, the model's own field (log entry 6). -/
def Obligations.ResultRegisterRules : Prop :=
  (∀ (i : Instr) (s t : State), exec i s = .next t →
    ((∃ b, i = .ladPressed b) ∨ (∃ b, i = .ladClicked b) ∨ i = .lpfGet ∨ (∃ v, i = .oscSample v) → t.result.toNat < 256) ∧
    (¬((∃ b, i = .ladPressed b) ∨ (∃ b, i = .ladClicked b) ∨ i = .lpfGet ∨ ∃ v, i = .oscSample v) → t.result = s.result)) ∧
  (∀ (s : State) (r : Fault), step s = .fault r → s.afterStep.result = s.result) ∧
  (∀ (s : State) (rest : List Access), s.Ready → s.pending = .readResult :: rest →
    step s = .next { s with pending := rest, lastRead := .word s.result }) ∧
  (∀ (s : State) (w : Word) (rest : List Access), s.Ready → s.pending = .writeResult w :: rest →
    step s = .next { s with pending := rest }) ∧
  (∀ (s : State) (lo hi : Byte) (rest : List Access), s.Ready → s.pending = .busWrite (s.cfg.portBase + 2) [lo, hi] :: rest →
    step s = .next { s with pending := rest }) ∧
  (∀ c : Config, (State.resetWith c).result = 0#16)

/-- R78: every command executes in every state, whatever its operands, but for the button id 3, which faults. -/
def Obligations.WellFormedCommandsComplete : Prop :=
  ∀ (i : Instr) (s : State),
    (i.wellFormed = true → ∃ t, exec i s = .next t) ∧ (i.wellFormed = false → exec i s = .fault (.badButton (encode i)))

/-! Control (44_control). -/

/-- R190: NOP is the word 0x0000 alone and changes nothing. -/
def Obligations.NopChangesNothing : Prop :=
  (∀ s : State, exec .nop s = .next s) ∧
  (∀ w : Word, decode w = .ok .nop ↔ w = 0x0000#16) ∧
  (∀ w : Word, 0x0001#16 ≤ w → w ≤ 0x0FFF#16 → ∃ e, decode w = .error e)

/-! The ladder (40_ladder). -/

/-- R100: LAD.SET leaves in the pressed mask the buttons of the band that holds the sample, each band containing its lower
bound, and no other combination occurs. -/
def Obligations.LadderBandsDecode : Prop :=
  ∀ (s : State) (v : Byte), s.cfg.Valid → ∃ t, exec (.ladSet v) s = .next t ∧
    (v.toNat < s.cfg.b1 → t.pressed = 0b000#3) ∧
    (s.cfg.b1 ≤ v.toNat → v.toNat < s.cfg.b2 → t.pressed = 0b001#3) ∧
    (s.cfg.b2 ≤ v.toNat → v.toNat < s.cfg.b3 → t.pressed = 0b101#3) ∧
    (s.cfg.b3 ≤ v.toNat → v.toNat < s.cfg.b4 → t.pressed = 0b011#3) ∧
    (s.cfg.b4 ≤ v.toNat → t.pressed = 0b111#3) ∧
    t.pressed ∈ [0b000#3, 0b001#3, 0b101#3, 0b011#3, 0b111#3]

/-- R101: LAD.SET, the word 0x10vv, replaces the pressed mask by the band mask and ORs its rising edges, bit by bit, into the pending
clicks; nothing else changes. -/
def Obligations.LadSetLatchesRisingEdges : Prop :=
  ∀ (s : State) (v : Byte),
    encode (.ladSet v) = 0x1000#16 ||| v.setWidth 16 ∧ ∃ clicks : ButtonMask,
      exec (.ladSet v) s = .next { s with pressed := bandMask s.cfg v.toNat, clicks := clicks } ∧
      ∀ b : Nat, b < 3 → clicks.getLsbD b =
        (s.clicks.getLsbD b || ((bandMask s.cfg v.toNat).getLsbD b && !s.pressed.getLsbD b))

/-- R102: the edge law and its three consequences. -/
def Obligations.LadSetEdgeLaw : Prop :=
  ∀ (s t : State) (v : Byte), exec (.ladSet v) s = .next t →
    t.clicks = s.clicks ||| (t.pressed &&& ~~~s.pressed) ∧
    s.clicks &&& t.clicks = s.clicks ∧
    (∀ b : Nat, t.clicks.getLsbD b ≠ s.clicks.getLsbD b → t.pressed.getLsbD b = true) ∧
    (∀ s' t' : State, s'.cfg = s.cfg → exec (.ladSet v) s' = .next t' → t'.pressed = t.pressed)

/-- R105: LAD.PRESSED, the word 0x200b, reads one bit of the pressed mask into RESULT and changes nothing else; it
reflects the last LAD.SET whatever other commands follow that, and is 0 before any LAD.SET; button id 3 faults. -/
def Obligations.LadPressedReadsMask : Prop :=
  ∀ (s : State) (b : BitVec 2),
    (b ≠ 3#2 → ∀ (is : List Instr) (t : State), (∀ v, .ladSet v ∉ is) →
      (∀ v, runInstrs (.ladSet v :: is) s = .next t → exec (.ladPressed b) t =
        .next { t with result := BitVec.ofNat 16 ((bandMask s.cfg v.toNat).toNat / 2 ^ b.toNat % 2) }) ∧
      (∀ c, runInstrs is (State.resetWith c) = .next t → exec (.ladPressed b) t = .next { t with result := 0#16 })) ∧
    encode (.ladPressed b) = 0x2000#16 ||| b.setWidth 16 ∧
    (b ≠ 3#2 → exec (.ladPressed b) s =
      .next { s with result := BitVec.ofNat 16 (s.pressed.toNat / 2 ^ b.toNat % 2) }) ∧
    (b = 3#2 → exec (.ladPressed b) s = .fault (.badButton 0x2003#16))

/-- R106: LAD.CLICKED, the word 0x300b, reads one pending click into RESULT, clears that bit and no other, and changes nothing else; button
id 3 faults. -/
def Obligations.LadClickedReadsAndClears : Prop :=
  ∀ (s : State) (b : BitVec 2),
    encode (.ladClicked b) = 0x3000#16 ||| b.setWidth 16 ∧
    (b ≠ 3#2 → ∃ clicks : ButtonMask,
      exec (.ladClicked b) s =
        .next { s with result := BitVec.ofNat 16 (s.clicks.toNat / 2 ^ b.toNat % 2), clicks := clicks } ∧
      clicks.getLsbD b.toNat = false ∧
      ∀ k : Nat, k < 3 → k ≠ b.toNat → clicks.getLsbD k = s.clicks.getLsbD k) ∧
    (b = 3#2 → exec (.ladClicked b) s = .fault (.badButton 0x3003#16))

/-- From R104 and R240: the words of button id 3 fault BAD_BUTTON at the command port before any state is read or written.
That the faulting access leaves the host's queue is the model's own (log entry 5). -/
def Obligations.ButtonIdThreeFaults : Prop :=
  ∀ (s : State) (w : Word) (rest : List Access), s.Ready → (w = 0x2003#16 ∨ w = 0x3003#16) → s.pending = .writeCmd w :: rest →
    step s = .fault (.badButton w) ∧ s.afterStep = { s with pending := rest, fault := some (.badButton w) }

/-- R108: a rising edge of button `b` is reported by the first LAD.CLICKED b after it, whatever commands stand between,
and by no later one until a LAD.SET raises `b` again. -/
def Obligations.ClickReportedExactlyOnce : Prop :=
  ∀ (s : State) (v : Byte) (b : BitVec 2) (is : List Instr),
    b ≠ 3#2 → raises b.toNat (.ladSet v) s = true → (∀ i ∈ is, i.wellFormed = true ∧ i ≠ .ladClicked b) →
    ∃ t, runInstrs (.ladSet v :: (is ++ [.ladClicked b])) s = .next t ∧ t.result = 1#16 ∧
      ∀ js : List Instr, (∀ j ∈ js, j.wellFormed = true) → neverRaises b.toNat js t = true →
        ∃ u, runInstrs (js ++ [.ladClicked b]) t = .next u ∧ u.result = 0#16

/-! The filter (41_lpf). -/

/-- R120, R121: LPF.STEP, the word 0x4Ass, writes the filter equation's value, computed exactly and truncated by the last shift, and
nothing else, for every shift amount and setpoint. -/
def Obligations.LpfStepFollowsFilterEquation : Prop :=
  ∀ (s : State) (a : BitVec 4) (sp : Byte),
    exec (.lpfStep a sp) s =
      .next { s with y := (s.y * 2 ^ a.toNat - s.y + sp.toNat * 2 ^ s.cfg.extraBits) / 2 ^ a.toNat } ∧
    s.y ≤ s.y * 2 ^ a.toNat ∧
    encode (.lpfStep a sp) = 0x4000#16 ||| a.setWidth 16 <<< 8 ||| sp.setWidth 16

/-- R122: the incremental form, with floor toward minus infinity, and that a step toward a lower setpoint moves by at least 1. -/
def Obligations.LpfStepIncrementalForm : Prop :=
  ∀ (s : State) (a : BitVec 4) (sp : Byte), ∃ y' : Nat,
    exec (.lpfStep a sp) s = .next { s with y := y' } ∧
    (y' : Int) = (s.y : Int) + Int.fdiv ((sp.toNat * 2 ^ s.cfg.extraBits : Nat) - (s.y : Int)) (2 ^ a.toNat) ∧
    (sp.toNat * 2 ^ s.cfg.extraBits < s.y → y' + 1 ≤ s.y)

/-- R123: the seven convergence laws, `T` the setpoint at internal precision. -/
def Obligations.LpfConvergenceLaws : Prop :=
  ∀ (s : State) (a : BitVec 4) (sp : Byte) (T : Nat), T = sp.toNat * 2 ^ s.cfg.extraBits →
    (s.y = T → exec (.lpfStep a sp) s = .next s) ∧
    (s.y ≤ T → ∃ y', exec (.lpfStep a sp) s = .next { s with y := y' } ∧ s.y ≤ y' ∧ y' ≤ T) ∧
    (T ≤ s.y → ∃ y', exec (.lpfStep a sp) s = .next { s with y := y' } ∧ T ≤ y' ∧ y' ≤ s.y) ∧
    (T < s.y → (∃ y', exec (.lpfStep a sp) s = .next { s with y := y' } ∧ y' < s.y) ∧
      ∃ n, lpfRun n a sp s = .next { s with y := T }) ∧
    (1 ≤ a.toNat → s.y < T →
      (∀ n, ∃ y', lpfRun n a sp s = .next { s with y := y' } ∧ y' < T) ∧
      (T - s.y < 2 ^ a.toNat → exec (.lpfStep a sp) s = .next s) ∧
      (2 ^ a.toNat ≤ T - s.y → ∃ y', exec (.lpfStep a sp) s = .next { s with y := y' } ∧ s.y < y') ∧
      ∃ n y', T + 1 ≤ y' + 2 ^ a.toNat ∧ y' + 1 ≤ T ∧ ∀ m, n ≤ m → lpfRun m a sp s = .next { s with y := y' }) ∧
    (a.toNat = 0 → exec (.lpfStep a sp) s = .next { s with y := T }) ∧
    (1 ≤ a.toNat → a.toNat ≤ s.cfg.extraBits → 1 ≤ sp.toNat → s.y < T →
      ∃ n, ∀ m, n ≤ m → ∃ y', lpfRun m a sp s = .next { s with y := y' } ∧ y' / 2 ^ s.cfg.extraBits = sp.toNat - 1)

/-- R124: the accumulator and the filter state stay within their widths, for every parameter E, shift and setpoint. -/
def Obligations.LpfNeverOverflows : Prop :=
  ∀ (s : State) (a : BitVec 4) (sp : Byte), s.y < 2 ^ s.cfg.wF →
    sp.toNat * 2 ^ s.cfg.extraBits < 2 ^ s.cfg.wF ∧
    s.y * (2 ^ a.toNat - 1) + sp.toNat * 2 ^ s.cfg.extraBits < 2 ^ (s.cfg.wF + a.toNat) ∧
    s.y * (2 ^ a.toNat - 1) + sp.toNat * 2 ^ s.cfg.extraBits < 2 ^ (s.cfg.wF + 15) ∧
    ∃ t, exec (.lpfStep a sp) s = .next t ∧
      t.y = (s.y * (2 ^ a.toNat - 1) + sp.toNat * 2 ^ s.cfg.extraBits) / 2 ^ a.toNat ∧ t.y < 2 ^ s.cfg.wF

/-- R125: the corner cases of LPF.STEP. -/
def Obligations.LpfCornerCases : Prop :=
  ∀ (s : State) (a : BitVec 4) (sp : Byte) (T : Nat), T = sp.toNat * 2 ^ s.cfg.extraBits →
    (a.toNat = 0 → exec (.lpfStep a sp) s = .next { s with y := T }) ∧
    (sp = 0#8 → exec (.lpfStep a sp) s = .next { s with y := s.y - (s.y + 2 ^ a.toNat - 1) / 2 ^ a.toNat }) ∧
    (sp = 0#8 → 1 ≤ a.toNat → ∃ n, lpfRun n a sp s = .next { s with y := 0 }) ∧
    (s.y = 1 → a = 2#4 → sp = 0#8 → exec (.lpfStep a sp) s = .next { s with y := 0 }) ∧
    (s.y = 3 → a = 2#4 → sp = 0#8 → exec (.lpfStep a sp) s = .next { s with y := 2 }) ∧
    (s.cfg.extraBits = 4 → s.y = 2 ^ s.cfg.wF - 1 → a = 15#4 → sp = 255#8 →
      T = 4080 ∧ exec (.lpfStep a sp) s = .next { s with y := 4094 }) ∧
    (s.y = 0 → 1 ≤ a.toNat → T < 2 ^ a.toNat → exec (.lpfStep a sp) s = .next s) ∧
    (s.cfg.wF < a.toNat → s.y < 2 ^ s.cfg.wF →
      (s.y ≤ T → exec (.lpfStep a sp) s = .next s) ∧
      (T < s.y → exec (.lpfStep a sp) s = .next { s with y := s.y - 1 }))

/-- R126: LPF.GET, the word 0x5000, reads the public speed, truncated, always below 256, and changes only RESULT. -/
def Obligations.LpfGetReadsPublicSpeed : Prop :=
  ∀ s : State, s.y < 2 ^ s.cfg.wF →
    exec .lpfGet s = .next { s with result := BitVec.ofNat 16 (s.y / 2 ^ s.cfg.extraBits) } ∧
    s.y / 2 ^ s.cfg.extraBits < 256 ∧
    (s.cfg.extraBits = 0 → ∃ t, exec .lpfGet s = .next t ∧ t.result.toNat = s.y) ∧
    (s.cfg.extraBits = 4 → s.y = 1023 → ∃ t, exec .lpfGet s = .next t ∧ t.result = 63#16) ∧
    encode .lpfGet = 0x5000#16

/-! The oscillator (42_oscillator). -/

/-- R143: the interpolator at a phase of the track: index in range, the thirds by the exact comparison and by the constant
comparators, the wrap of the upper neighbour, the truncated average, and the thirds of F = 4 and F = 6. -/
def Obligations.InterpolationThirds : Prop :=
  (∀ (table : List Byte) (f ph idx frac : Nat),
    ph < table.length * 2 ^ f → idx = ph / 2 ^ f → frac = ph % 2 ^ f →
    idx < table.length ∧
    (3 * frac < 2 ^ f → table[idx]? = some (interp table f ph)) ∧
    (2 ^ f ≤ 3 * frac → 3 * frac < 2 ^ (f + 1) → ∃ s0 s1 : Byte,
      table[idx]? = some s0 ∧ table[(idx + 1) % table.length]? = some s1 ∧
      (interp table f ph).toNat = (s0.toNat + s1.toNat) / 2) ∧
    (2 ^ (f + 1) ≤ 3 * frac → table[(idx + 1) % table.length]? = some (interp table f ph)) ∧
    (3 * frac < 2 ^ f ↔ frac < (2 ^ f + 2) / 3) ∧
    (2 ^ (f + 1) ≤ 3 * frac ↔ (2 ^ (f + 1) + 2) / 3 ≤ frac)) ∧
  (2 ^ 4 + 2) / 3 = 6 ∧ (2 ^ 5 + 2) / 3 = 11 ∧ (2 ^ 6 + 2) / 3 = 22 ∧ (2 ^ 7 + 2) / 3 = 43

/-- R141: the engine track: silence and phase 0 at speed 0; else advance, wrap by one conditional subtraction, and sample
at the advanced phase; a zero increment holds the phase. The track's sample is RESULT itself while the horn is silent. -/
def Obligations.EngineTrackAdvances : Prop :=
  ∀ (s : State) (v : Byte), s.Inv → ∃ t, exec (.oscSample v) s = .next t ∧
    (v = 0#8 → t.phE = 0 ∧ (s.playing = false → t.result = 128#16)) ∧
    (v ≠ 0#8 →
      t.phE = (if s.phE + v.toNat / 2 ^ s.cfg.engShift < s.cfg.lE then s.phE + v.toNat / 2 ^ s.cfg.engShift
        else s.phE + v.toNat / 2 ^ s.cfg.engShift - s.cfg.lE) ∧
      (s.playing = false → t.result = (interp s.cfg.engTable s.cfg.fE t.phE).setWidth 16)) ∧
    (v ≠ 0#8 → v.toNat / 2 ^ s.cfg.engShift = 0 → t.phE = s.phE)

/-- R142: the horn track: while a note that is no rest plays, advance, wrap by one conditional subtraction, and sample at
the advanced phase; else the phase holds and the track is silent. The track's sample is RESULT itself at engine speed 0. -/
def Obligations.HornTrackAdvances : Prop :=
  ∀ (s : State) (v : Byte), s.Inv → ∃ t, exec (.oscSample v) s = .next t ∧
    (s.playing = true → s.hinc ≠ 0 →
      t.phH = (if s.phH + s.hinc < s.cfg.lH then s.phH + s.hinc else s.phH + s.hinc - s.cfg.lH) ∧
      (v = 0#8 → t.result = (interp s.cfg.hornTable s.cfg.fH t.phH).setWidth 16)) ∧
    (s.playing = false ∨ s.hinc = 0 → t.phH = s.phH ∧ (v = 0#8 → t.result = 128#16))

/-- R144: the mix is the sum less the offset, saturated to 0..255, and its consequences. -/
def Obligations.MixerSaturates : Prop :=
  (∀ eng horn : Byte,
    (-128 : Int) ≤ (eng.toNat : Int) + horn.toNat - 128 ∧ (eng.toNat : Int) + horn.toNat - 128 ≤ 382 ∧
    ((mix eng horn).toNat : Int) = min (max ((eng.toNat : Int) + horn.toNat - 128) 0) 255) ∧
  (∀ eng : Byte, mix eng 128#8 = eng) ∧ (∀ horn : Byte, mix 128#8 horn = horn) ∧
  mix 255#8 255#8 = 255#8 ∧ mix 0#8 0#8 = 0#8

/-- R145: OSC.SAMPLE, the word 0x60ss, ticks both tracks, writes both phases and the saturated mix to RESULT, and changes nothing else, for
every engine speed. -/
def Obligations.OscSampleMixesTracks : Prop :=
  ∀ (s : State) (v : Byte) (e h : Nat × Byte),
    e = engineTick s.cfg v.toNat s.phE → h = hornTrackTick s.cfg s.playing s.hinc s.phH → ∃ r : Word,
      exec (.oscSample v) s = .next { s with phE := e.1, phH := h.1, result := r } ∧
      (r.toNat : Int) = min (max ((e.2.toNat : Int) + h.2.toNat - 128) 0) 255 ∧
      encode (.oscSample v) = 0x6000#16 ||| v.setWidth 16

/-- R147: over any run, the engine phase is a function of the OSC.SAMPLE operands alone (and forgets what stood before a
zero operand), the horn phase a function of the sounding ticks' increments alone. -/
def Obligations.TracksAreIndependent : Prop :=
  (∀ (is : List Instr) (s t : State), runInstrs is s = .next t →
    t.phE = enginePhaseAfter s.cfg s.phE (is.filterMap oscOperand) ∧
    t.phH = hornPhaseAfter s.cfg s.phH (soundingIncrements is s)) ∧
  (∀ (c : Config) (ph ph' : Nat) (us vs : List Byte),
    enginePhaseAfter c ph (us ++ 0#8 :: vs) = enginePhaseAfter c ph' (0#8 :: vs))

/-! The horn sequencer (43_horn_sequencer). -/

/-- R170: a song id is playable exactly when it is in the library and its song is not empty; another id changes nothing. -/
def Obligations.UnplayableSongsIgnored : Prop :=
  ∀ (s : State) (id : Byte),
    ((¬ ∃ notes, s.cfg.songLib[id.toNat]? = some notes ∧ 1 ≤ notes.length) → exec (.hornPlay id) s = .next s) ∧
    ((∃ notes, s.cfg.songLib[id.toNat]? = some notes ∧ 1 ≤ notes.length) →
      ∃ t, exec (.hornPlay id) s = .next t ∧ t.playing = true)

/-- R171: HORN.PLAY, the word 0x70ii, of a playable id copies the song, leaves the buffer beyond it, resets cursor and
counter, sets the first note's increment and the playing bit, and changes nothing else; of another id it changes nothing. -/
def Obligations.HornPlayStartsSong : Prop :=
  ∀ (s : State) (id : Byte), s.Inv →
    encode (.hornPlay id) = 0x7000#16 ||| id.setWidth 16 ∧
    ((∀ notes, s.cfg.songLib[id.toNat]? = some notes → notes = []) → exec (.hornPlay id) s = .next s) ∧
    ∀ notes : List Byte, s.cfg.songLib[id.toNat]? = some notes → 1 ≤ notes.length →
      ∃ (b : List Byte) (first : Byte) (inc : Nat),
        exec (.hornPlay id) s =
          .next { s with buf := b, slen := BitVec.ofNat 8 notes.length, nidx := 0#8, ncnt := 0#8, hinc := inc, playing := true } ∧
        notes.length < 256 ∧ b.length = s.buf.length ∧
        (∀ k, k < notes.length → b[k]? = notes[k]?) ∧ (∀ k, notes.length ≤ k → b[k]? = s.buf[k]?) ∧
        notes[0]? = some first ∧ s.cfg.noteInc[first.toNat]? = some inc

/-- R174: rests last DUR_REST ticks and sounding notes DUR_NOTE, fewer; a rest is the code 0, which is a zero increment. -/
def Obligations.NoteDurations : Prop :=
  ∀ (c : Config) (code : Byte), c.Valid →
    (code = 0#8 → noteDur c code = c.durRest) ∧ (code ≠ 0#8 → noteDur c code = c.durNote) ∧
    (code = 0#8 ↔ noteIncOf c code = 0) ∧ c.durNote < c.durRest ∧ 1 ≤ c.durNote

/-- R175: HORN.TICK, the word 0x8000, by cases: stopped, within a note, at the end of a note before the last, at the end of the last note;
a playing state has a current note, and a next one unless the note is the last. -/
def Obligations.HornTickAdvancesSequencer : Prop :=
  ∀ s : State, s.Inv → encode .hornTick = 0x8000#16 ∧
    (s.playing = false → exec .hornTick s = .next { s with hinc := 0 }) ∧
    (s.playing = true → ∃ (code : Byte) (d : Nat),
      s.buf[s.nidx.toNat]? = some code ∧ d = (if code = 0#8 then s.cfg.durRest else s.cfg.durNote) ∧
      (s.ncnt.toNat + 1 < d →
        exec .hornTick s = .next { s with ncnt := s.ncnt + 1#8, hinc := noteIncOf s.cfg code }) ∧
      (d ≤ s.ncnt.toNat + 1 → s.nidx.toNat + 1 < s.slen.toNat → ∃ next : Byte,
        s.buf[s.nidx.toNat + 1]? = some next ∧
        exec .hornTick s = .next { s with ncnt := 0#8, nidx := s.nidx + 1#8, hinc := noteIncOf s.cfg next }) ∧
      (d ≤ s.ncnt.toNat + 1 → s.slen.toNat ≤ s.nidx.toNat + 1 →
        exec .hornTick s = .next { s with ncnt := 0#8, nidx := s.nidx + 1#8, playing := false, hinc := 0 }))

/-- R176, first item: HORN.TICK while no song plays changes nothing. -/
def Obligations.TickWhileStoppedChangesNothing : Prop :=
  ∀ s : State, s.Inv → s.playing = false → exec .hornTick s = .next s

/-- R176: each note of a song lasts exactly its duration, counted from HORN.PLAY, with its own increment; the song plays
before the tick numbered by the sum of the durations, and from that tick on it is stopped. -/
def Obligations.SongPlaysEachNoteForItsDuration : Prop :=
  ∀ (s : State) (id : Byte) (notes : List Byte) (m : Nat),
    s.Inv → s.cfg.songLib[id.toNat]? = some notes → 1 ≤ notes.length →
    ∃ t, songRun id m s = .next t ∧
      (∀ (k : Nat) (code : Byte), notes[k]? = some code →
        ticksBefore s.cfg notes k ≤ m → m < ticksBefore s.cfg notes (k + 1) →
        t.playing = true ∧ t.nidx.toNat = k ∧ t.ncnt.toNat = m - ticksBefore s.cfg notes k ∧
          t.hinc = noteIncOf s.cfg code) ∧
      (m < ticksBefore s.cfg notes notes.length → t.playing = true) ∧
      (ticksBefore s.cfg notes notes.length ≤ m →
        t.playing = false ∧ t.nidx = t.slen ∧ t.slen.toNat = notes.length ∧ t.ncnt = 0#8 ∧ t.hinc = 0)

/-! The host's program beside the block (48_host_controller). -/

/-- R203: `setSpeedSetpoint` clamps to [IDLE, MAX] while RUNNING, and has no effect otherwise. -/
def Obligations.SetpointClampedWhileRunning : Prop :=
  ∀ (sys : System) (raw : Byte), sys.Valid →
    (sys.eng.status ≠ .running → setSpeedSetpoint raw sys = .next sys) ∧
    (sys.eng.status = .running → ∃ sp, setSpeedSetpoint raw sys = .next { sys with eng := { sys.eng with sp := sp } } ∧
      (raw < sys.par.idle → sp = sys.par.idle) ∧ (sys.par.max < raw → sp = sys.par.max) ∧
      (sys.par.idle ≤ raw → raw ≤ sys.par.max → sp = raw))

/-- R205: `playHornSong` issues nothing while the ignition is OFF, and HORN.PLAY otherwise. -/
def Obligations.HornRequestGatedByIgnition : Prop :=
  ∀ (sys : System) (id : Byte), sys.Valid → sys.block.fault = none →
    (sys.eng.ign = .off → playHornSong id sys = .next sys) ∧
    (sys.eng.ign ≠ .off → ∃ b, exec (.hornPlay id) sys.block = .next b ∧ playHornSong id sys = .next { sys with block := b })

/-- R202: the setpoint invariant holds after host reset and after every host procedure that completes. HOST_INPUT_MAP is an
open parameter (R214), so a pass of the main loop is stated under every map that keeps the invariant, and the last clause
says that the reference map does. The order of the reference map is the model's reading (log entry 17), and that a pass with
no sample due leaves the system as it is is the model's choice (log entry 22). -/
def Obligations.SetpointInvariantKept : Prop :=
  (∀ (p : HostParams) (c : Config) (t : System), systemReset p c = .next t → setpointInv t) ∧
  (∀ (sys t : System), setpointInv sys →
    (∀ raw, setSpeedSetpoint raw sys = .next t → setpointInv t) ∧
    (∀ pos, setIgnitionPosition pos sys = .next t → setpointInv t) ∧
    (∀ id, playHornSong id sys = .next t → setpointInv t) ∧
    (update sys = .next t → setpointInv t) ∧
    (getSpeed sys (fun _ u => .next u) = .next t → setpointInv t) ∧
    (ledOn sys = .next t → setpointInv t) ∧
    (audioCallback sys = .next t → setpointInv t) ∧
    (∀ (map : InputMap) (throttle ladder : Byte),
      (∀ (x : Byte) (u w : System), setpointInv u → map x u = .next w → setpointInv w) →
      mainPass map throttle ladder sys = .next t → setpointInv t) ∧
    (∀ throttle, referenceInputMap throttle sys = .next t → setpointInv t))

/-- R211: the counters stay within their bounds over every model tick; from reset with the ignition held at START, the
first `update()` enters CRANKING and the (MIN_CRANK_TICKS + 2)-th enters RUNNING. -/
def Obligations.CrankingEndsAndCountersBounded : Prop :=
  (∀ (p : HostParams) (c : Config) (t : System), systemReset p c = .next t → counterInv t) ∧
  (∀ (sys t : System), counterInv sys → update sys = .next t → counterInv t) ∧
  (∀ (p : HostParams) (c : Config) (n : Nat), c.Valid → p.Valid c →
    ∃ s₀ s₁ t, systemReset p c = .next s₀ ∧ setIgnitionPosition .start s₀ = .next s₁ ∧ updates (n + 1) s₁ = .next t ∧
      (n = 0 → t.eng.status = .cranking ∧ t.eng.crank = 0) ∧
      (n ≤ p.minCrankTicks → t.eng.status = .cranking) ∧
      (p.minCrankTicks + 1 ≤ n → t.eng.status = .running))

/-- R213: the motor duty, with the spec's grouping, its bounds and its worked values. -/
def Obligations.MotorDutyShaped : Prop :=
  (∀ (p : HostParams) (c : Config) (v : Byte), c.Valid → p.Valid c → ∃ d, duty p c v = .next d ∧
    (v < p.effects → d = 0) ∧
    (p.effects ≤ v → (d : Int) = min ((p.minDuty.toNat : Int) + ((v.toNat : Int) - p.idle.toNat) / 2) p.maxDuty.toNat)) ∧
  duty HostParams.reference Config.reference 71#8 = .next 0 ∧
  duty HostParams.reference Config.reference 72#8 = .next 68 ∧
  duty HostParams.reference Config.reference 199#8 = .next 131

/-- Every host model tick completes under valid parameters while no fault is recorded, and leaves the host so. -/
def Obligations.UpdateAlwaysCompletes : Prop :=
  ∀ sys : System, sys.Valid → sys.block.fault = none → ∃ t, update sys = .next t ∧ t.Valid ∧ t.block.fault = none

/-- R264, U17: a configuration that breaks R9, or host parameters that break R200, are refused by every procedure of the
host. That each procedure refuses, and the name of the refusal, are the model's reading (log entry 24). -/
def Obligations.InvalidHostParametersRefused : Prop :=
  ∀ (sys : System) (r : Refusal), ¬ sys.Valid →
    r = (if sys.block.cfg.Valid then .invalidHostParameters else .invalidConfiguration) →
    systemReset sys.par sys.block.cfg = .refused r ∧
    (∀ raw, setSpeedSetpoint raw sys = .refused r) ∧ (∀ pos, setIgnitionPosition pos sys = .refused r) ∧
    (∀ id, playHornSong id sys = .refused r) ∧ (∀ k, getSpeed sys k = .refused r) ∧
    update sys = .refused r ∧ ledOn sys = .refused r ∧ (∀ v, duty sys.par sys.block.cfg v = .refused r) ∧
    audioCallback sys = .refused r ∧ (∀ map throttle ladder, mainPass map throttle ladder sys = .refused r)

/-- R263: host reset under valid parameters (other parameters are refused, log entry 24), beside the block's power-on
reset. -/
def Obligations.HostResetLeavesIdle : Prop :=
  ∀ (p : HostParams) (c : Config), c.Valid → p.Valid c → ∃ t, systemReset p c = .next t ∧
    t.eng.status = .off ∧ t.eng.sp = 0#8 ∧ t.eng.ign = .off ∧ t.eng.crank = 0 ∧ t.eng.hornCnt = 0 ∧ t.eng.blink = 0 ∧
    t.curSpeed = 0#8 ∧ t.div = 0 ∧ t.sampleDue = false ∧ t.par = p ∧ t.block = State.resetWith c
end

