-- ==== Sys2Proof/Laws/Config.lean ====
section
/-! SUPPORT. What a valid configuration gives, constraint by constraint, and that the reference configuration is valid. -/

namespace Sys2Proof

theorem Config.reference_valid : Config.reference.Valid := by decide +kernel

theorem HostParams.reference_valid : HostParams.reference.Valid Config.reference := by decide

namespace Config.Valid

variable {c : Config} (h : c.Valid)
include h

theorem extraBits_le : c.extraBits ≤ 8 := h.1
theorem engTable_pos : 0 < c.engTable.length := h.2.1.1
theorem fE_le : c.fE ≤ 8 := h.2.2.1
theorem engIncrement_lt : 255 >>> c.engShift < c.lE := h.2.2.2.1.2
theorem hornTable_pos : 0 < c.hornTable.length := h.2.2.2.2.1.1
theorem fE_lt_fH : c.fE < c.fH := h.2.2.2.2.2.1.1
theorem noteInc_length : c.noteInc.length = 256 := h.2.2.2.2.2.2.1.1
theorem noteInc_head : c.noteInc.head? = some 0 := h.2.2.2.2.2.2.1.2.1
theorem noteInc_tail : (c.noteInc.tail.all fun x => x != 0) = true := h.2.2.2.2.2.2.1.2.2.1
theorem noteInc_lt : (c.noteInc.all fun x => decide (x < c.lH)) = true := h.2.2.2.2.2.2.1.2.2.2
theorem maxSongLen_pos : 1 ≤ c.maxSongLen := h.2.2.2.2.2.2.2.2.1.1
theorem maxSongLen_le : c.maxSongLen ≤ 255 := h.2.2.2.2.2.2.2.2.1.2
theorem songs_fit : (c.songLib.all fun notes => decide (notes.length ≤ c.maxSongLen)) = true := h.2.2.2.2.2.2.2.2.2.1
theorem durNote_pos : 1 ≤ c.durNote := h.2.2.2.2.2.2.2.2.2.2.1.1
theorem durNote_lt : c.durNote < c.durRest := h.2.2.2.2.2.2.2.2.2.2.1.2.1
theorem durRest_le : c.durRest ≤ 255 := h.2.2.2.2.2.2.2.2.2.2.1.2.2
theorem b1_pos : 0 < c.b1 := h.2.2.2.2.2.2.2.2.2.2.2.1.1
theorem b1_lt_b2 : c.b1 < c.b2 := by
  have := h.2.2.2.2.2.2.2.2.2.2.2.1
  omega
theorem b2_lt_b3 : c.b2 < c.b3 := h.2.2.2.2.2.2.2.2.2.2.2.1.2.2.2.1
theorem b3_lt_b4 : c.b3 < c.b4 := h.2.2.2.2.2.2.2.2.2.2.2.1.2.2.2.2.1
theorem portBase_even : c.portBase % 2 = 0 := h.2.2.2.2.2.2.2.2.2.2.2.2

theorem lE_pos : 0 < c.lE := Nat.lt_of_le_of_lt (Nat.zero_le _) (engIncrement_lt h)

theorem lH_pos : 0 < c.lH := Nat.mul_pos (hornTable_pos h) (Nat.two_pow_pos _)

/-- Every song of the library fits the buffer. -/
theorem song_length_le {k : Nat} {notes : List Byte} (hk : c.songLib[k]? = some notes) : notes.length ≤ c.maxSongLen := by
  simpa using List.all_eq_true.mp (songs_fit h) notes (List.mem_of_getElem? hk)

end Config.Valid

end Sys2Proof
end

