-- ==== Sys2Proof/Laws/Count.lean ====
section
/-! SUPPORT. Counting words by intervals, so that no count needs the kernel to visit all 65536 words. -/

namespace Sys2Proof.Machine
theorem countP_range_between (lo hi n : Nat) :
    (List.range n).countP (fun k => decide (lo ≤ k ∧ k ≤ hi)) = min n (hi + 1) - lo := by
  induction n with
  | zero => simp
  | succ n ih =>
    rw [List.range_succ, List.countP_append, ih, List.countP_singleton]
    split <;> simp at * <;> omega

theorem countWords_congr {p q : Word → Bool} (h : ∀ w, p w = q w) : countWords p = countWords q := by
  rw [funext h]

/-- The words from `lo` to `hi`. -/
theorem countWords_between (lo hi : Word) :
    countWords (fun w => decide (lo ≤ w ∧ w ≤ hi)) = hi.toNat + 1 - lo.toNat := by
  have h : countWords (fun w => decide (lo ≤ w ∧ w ≤ hi)) =
      (List.range 65536).countP fun k => decide (lo.toNat ≤ k ∧ k ≤ hi.toNat) := by
    refine List.countP_congr fun k hk => ?_
    have hk : k < 65536 := by simpa using hk
    simp [BitVec.le_def, Nat.mod_eq_of_lt hk]
  rw [h, countP_range_between]
  have := hi.isLt
  omega

/-- Two conditions no word satisfies together count apart. -/
theorem countWords_or {p q : Word → Bool} (h : ∀ w, ¬ (p w = true ∧ q w = true)) :
    countWords (fun w => p w || q w) = countWords p + countWords q := by
  unfold countWords
  induction List.range 65536 with
  | nil => rfl
  | cons n l ih =>
    have := h (BitVec.ofNat 16 n)
    simp only [List.countP_cons, ih]
    cases hp : p (BitVec.ofNat 16 n) <;> cases hq : q (BitVec.ofNat 16 n) <;> simp_all <;> omega
end Sys2Proof.Machine
end

