-- ==== Sys2Proof/Laws/State.lean ====
section
/-! SUPPORT. What each update of the state writes and what it leaves: one lemma per field per update, and the fields of reset. -/

namespace Sys2Proof.Machine

@[simp] theorem State.setY_cfg (s : State) (v : Nat) : (s.setY v).cfg = s.cfg := rfl
@[simp] theorem State.setY_y (s : State) (v : Nat) : (s.setY v).y = v := rfl
@[simp] theorem State.setY_phE (s : State) (v : Nat) : (s.setY v).phE = s.phE := rfl
@[simp] theorem State.setY_phH (s : State) (v : Nat) : (s.setY v).phH = s.phH := rfl
@[simp] theorem State.setY_buf (s : State) (v : Nat) : (s.setY v).buf = s.buf := rfl
@[simp] theorem State.setY_slen (s : State) (v : Nat) : (s.setY v).slen = s.slen := rfl
@[simp] theorem State.setY_nidx (s : State) (v : Nat) : (s.setY v).nidx = s.nidx := rfl
@[simp] theorem State.setY_ncnt (s : State) (v : Nat) : (s.setY v).ncnt = s.ncnt := rfl
@[simp] theorem State.setY_hinc (s : State) (v : Nat) : (s.setY v).hinc = s.hinc := rfl
@[simp] theorem State.setY_playing (s : State) (v : Nat) : (s.setY v).playing = s.playing := rfl
@[simp] theorem State.setY_pressed (s : State) (v : Nat) : (s.setY v).pressed = s.pressed := rfl
@[simp] theorem State.setY_clicks (s : State) (v : Nat) : (s.setY v).clicks = s.clicks := rfl
@[simp] theorem State.setY_result (s : State) (v : Nat) : (s.setY v).result = s.result := rfl
@[simp] theorem State.setY_fault (s : State) (v : Nat) : (s.setY v).fault = s.fault := rfl
@[simp] theorem State.setY_pending (s : State) (v : Nat) : (s.setY v).pending = s.pending := rfl
@[simp] theorem State.setY_lastRead (s : State) (v : Nat) : (s.setY v).lastRead = s.lastRead := rfl
@[simp] theorem State.setY_freeCount (s : State) (v : Nat) : (s.setY v).freeCount = s.freeCount := rfl

@[simp] theorem State.setPhases_cfg (s : State) (e h : Nat) : (s.setPhases e h).cfg = s.cfg := rfl
@[simp] theorem State.setPhases_y (s : State) (e h : Nat) : (s.setPhases e h).y = s.y := rfl
@[simp] theorem State.setPhases_phE (s : State) (e h : Nat) : (s.setPhases e h).phE = e := rfl
@[simp] theorem State.setPhases_phH (s : State) (e h : Nat) : (s.setPhases e h).phH = h := rfl
@[simp] theorem State.setPhases_buf (s : State) (e h : Nat) : (s.setPhases e h).buf = s.buf := rfl
@[simp] theorem State.setPhases_slen (s : State) (e h : Nat) : (s.setPhases e h).slen = s.slen := rfl
@[simp] theorem State.setPhases_nidx (s : State) (e h : Nat) : (s.setPhases e h).nidx = s.nidx := rfl
@[simp] theorem State.setPhases_ncnt (s : State) (e h : Nat) : (s.setPhases e h).ncnt = s.ncnt := rfl
@[simp] theorem State.setPhases_hinc (s : State) (e h : Nat) : (s.setPhases e h).hinc = s.hinc := rfl
@[simp] theorem State.setPhases_playing (s : State) (e h : Nat) : (s.setPhases e h).playing = s.playing := rfl
@[simp] theorem State.setPhases_pressed (s : State) (e h : Nat) : (s.setPhases e h).pressed = s.pressed := rfl
@[simp] theorem State.setPhases_clicks (s : State) (e h : Nat) : (s.setPhases e h).clicks = s.clicks := rfl
@[simp] theorem State.setPhases_result (s : State) (e h : Nat) : (s.setPhases e h).result = s.result := rfl
@[simp] theorem State.setPhases_fault (s : State) (e h : Nat) : (s.setPhases e h).fault = s.fault := rfl
@[simp] theorem State.setPhases_pending (s : State) (e h : Nat) : (s.setPhases e h).pending = s.pending := rfl
@[simp] theorem State.setPhases_lastRead (s : State) (e h : Nat) : (s.setPhases e h).lastRead = s.lastRead := rfl
@[simp] theorem State.setPhases_freeCount (s : State) (e h : Nat) : (s.setPhases e h).freeCount = s.freeCount := rfl

@[simp] theorem State.setResult_cfg (s : State) (w : Word) : (s.setResult w).cfg = s.cfg := rfl
@[simp] theorem State.setResult_y (s : State) (w : Word) : (s.setResult w).y = s.y := rfl
@[simp] theorem State.setResult_phE (s : State) (w : Word) : (s.setResult w).phE = s.phE := rfl
@[simp] theorem State.setResult_phH (s : State) (w : Word) : (s.setResult w).phH = s.phH := rfl
@[simp] theorem State.setResult_buf (s : State) (w : Word) : (s.setResult w).buf = s.buf := rfl
@[simp] theorem State.setResult_slen (s : State) (w : Word) : (s.setResult w).slen = s.slen := rfl
@[simp] theorem State.setResult_nidx (s : State) (w : Word) : (s.setResult w).nidx = s.nidx := rfl
@[simp] theorem State.setResult_ncnt (s : State) (w : Word) : (s.setResult w).ncnt = s.ncnt := rfl
@[simp] theorem State.setResult_hinc (s : State) (w : Word) : (s.setResult w).hinc = s.hinc := rfl
@[simp] theorem State.setResult_playing (s : State) (w : Word) : (s.setResult w).playing = s.playing := rfl
@[simp] theorem State.setResult_pressed (s : State) (w : Word) : (s.setResult w).pressed = s.pressed := rfl
@[simp] theorem State.setResult_clicks (s : State) (w : Word) : (s.setResult w).clicks = s.clicks := rfl
@[simp] theorem State.setResult_result (s : State) (w : Word) : (s.setResult w).result = w := rfl
@[simp] theorem State.setResult_fault (s : State) (w : Word) : (s.setResult w).fault = s.fault := rfl
@[simp] theorem State.setResult_pending (s : State) (w : Word) : (s.setResult w).pending = s.pending := rfl
@[simp] theorem State.setResult_lastRead (s : State) (w : Word) : (s.setResult w).lastRead = s.lastRead := rfl
@[simp] theorem State.setResult_freeCount (s : State) (w : Word) : (s.setResult w).freeCount = s.freeCount := rfl

@[simp] theorem State.setPressed_cfg (s : State) (p : ButtonMask) : (s.setPressed p).cfg = s.cfg := rfl
@[simp] theorem State.setPressed_y (s : State) (p : ButtonMask) : (s.setPressed p).y = s.y := rfl
@[simp] theorem State.setPressed_phE (s : State) (p : ButtonMask) : (s.setPressed p).phE = s.phE := rfl
@[simp] theorem State.setPressed_phH (s : State) (p : ButtonMask) : (s.setPressed p).phH = s.phH := rfl
@[simp] theorem State.setPressed_buf (s : State) (p : ButtonMask) : (s.setPressed p).buf = s.buf := rfl
@[simp] theorem State.setPressed_slen (s : State) (p : ButtonMask) : (s.setPressed p).slen = s.slen := rfl
@[simp] theorem State.setPressed_nidx (s : State) (p : ButtonMask) : (s.setPressed p).nidx = s.nidx := rfl
@[simp] theorem State.setPressed_ncnt (s : State) (p : ButtonMask) : (s.setPressed p).ncnt = s.ncnt := rfl
@[simp] theorem State.setPressed_hinc (s : State) (p : ButtonMask) : (s.setPressed p).hinc = s.hinc := rfl
@[simp] theorem State.setPressed_playing (s : State) (p : ButtonMask) : (s.setPressed p).playing = s.playing := rfl
@[simp] theorem State.setPressed_pressed (s : State) (p : ButtonMask) : (s.setPressed p).pressed = p := rfl
@[simp] theorem State.setPressed_clicks (s : State) (p : ButtonMask) : (s.setPressed p).clicks = s.clicks := rfl
@[simp] theorem State.setPressed_result (s : State) (p : ButtonMask) : (s.setPressed p).result = s.result := rfl
@[simp] theorem State.setPressed_fault (s : State) (p : ButtonMask) : (s.setPressed p).fault = s.fault := rfl
@[simp] theorem State.setPressed_pending (s : State) (p : ButtonMask) : (s.setPressed p).pending = s.pending := rfl
@[simp] theorem State.setPressed_lastRead (s : State) (p : ButtonMask) : (s.setPressed p).lastRead = s.lastRead := rfl
@[simp] theorem State.setPressed_freeCount (s : State) (p : ButtonMask) : (s.setPressed p).freeCount = s.freeCount := rfl

@[simp] theorem State.setClicks_cfg (s : State) (m : ButtonMask) : (s.setClicks m).cfg = s.cfg := rfl
@[simp] theorem State.setClicks_y (s : State) (m : ButtonMask) : (s.setClicks m).y = s.y := rfl
@[simp] theorem State.setClicks_phE (s : State) (m : ButtonMask) : (s.setClicks m).phE = s.phE := rfl
@[simp] theorem State.setClicks_phH (s : State) (m : ButtonMask) : (s.setClicks m).phH = s.phH := rfl
@[simp] theorem State.setClicks_buf (s : State) (m : ButtonMask) : (s.setClicks m).buf = s.buf := rfl
@[simp] theorem State.setClicks_slen (s : State) (m : ButtonMask) : (s.setClicks m).slen = s.slen := rfl
@[simp] theorem State.setClicks_nidx (s : State) (m : ButtonMask) : (s.setClicks m).nidx = s.nidx := rfl
@[simp] theorem State.setClicks_ncnt (s : State) (m : ButtonMask) : (s.setClicks m).ncnt = s.ncnt := rfl
@[simp] theorem State.setClicks_hinc (s : State) (m : ButtonMask) : (s.setClicks m).hinc = s.hinc := rfl
@[simp] theorem State.setClicks_playing (s : State) (m : ButtonMask) : (s.setClicks m).playing = s.playing := rfl
@[simp] theorem State.setClicks_pressed (s : State) (m : ButtonMask) : (s.setClicks m).pressed = s.pressed := rfl
@[simp] theorem State.setClicks_clicks (s : State) (m : ButtonMask) : (s.setClicks m).clicks = m := rfl
@[simp] theorem State.setClicks_result (s : State) (m : ButtonMask) : (s.setClicks m).result = s.result := rfl
@[simp] theorem State.setClicks_fault (s : State) (m : ButtonMask) : (s.setClicks m).fault = s.fault := rfl
@[simp] theorem State.setClicks_pending (s : State) (m : ButtonMask) : (s.setClicks m).pending = s.pending := rfl
@[simp] theorem State.setClicks_lastRead (s : State) (m : ButtonMask) : (s.setClicks m).lastRead = s.lastRead := rfl
@[simp] theorem State.setClicks_freeCount (s : State) (m : ButtonMask) : (s.setClicks m).freeCount = s.freeCount := rfl

@[simp] theorem State.setSong_cfg (s : State) (b : List Byte) (n : Byte) : (s.setSong b n).cfg = s.cfg := rfl
@[simp] theorem State.setSong_y (s : State) (b : List Byte) (n : Byte) : (s.setSong b n).y = s.y := rfl
@[simp] theorem State.setSong_phE (s : State) (b : List Byte) (n : Byte) : (s.setSong b n).phE = s.phE := rfl
@[simp] theorem State.setSong_phH (s : State) (b : List Byte) (n : Byte) : (s.setSong b n).phH = s.phH := rfl
@[simp] theorem State.setSong_buf (s : State) (b : List Byte) (n : Byte) : (s.setSong b n).buf = b := rfl
@[simp] theorem State.setSong_slen (s : State) (b : List Byte) (n : Byte) : (s.setSong b n).slen = n := rfl
@[simp] theorem State.setSong_nidx (s : State) (b : List Byte) (n : Byte) : (s.setSong b n).nidx = s.nidx := rfl
@[simp] theorem State.setSong_ncnt (s : State) (b : List Byte) (n : Byte) : (s.setSong b n).ncnt = s.ncnt := rfl
@[simp] theorem State.setSong_hinc (s : State) (b : List Byte) (n : Byte) : (s.setSong b n).hinc = s.hinc := rfl
@[simp] theorem State.setSong_playing (s : State) (b : List Byte) (n : Byte) : (s.setSong b n).playing = s.playing := rfl
@[simp] theorem State.setSong_pressed (s : State) (b : List Byte) (n : Byte) : (s.setSong b n).pressed = s.pressed := rfl
@[simp] theorem State.setSong_clicks (s : State) (b : List Byte) (n : Byte) : (s.setSong b n).clicks = s.clicks := rfl
@[simp] theorem State.setSong_result (s : State) (b : List Byte) (n : Byte) : (s.setSong b n).result = s.result := rfl
@[simp] theorem State.setSong_fault (s : State) (b : List Byte) (n : Byte) : (s.setSong b n).fault = s.fault := rfl
@[simp] theorem State.setSong_pending (s : State) (b : List Byte) (n : Byte) : (s.setSong b n).pending = s.pending := rfl
@[simp] theorem State.setSong_lastRead (s : State) (b : List Byte) (n : Byte) : (s.setSong b n).lastRead = s.lastRead := rfl
@[simp] theorem State.setSong_freeCount (s : State) (b : List Byte) (n : Byte) : (s.setSong b n).freeCount = s.freeCount := rfl

@[simp] theorem State.setCursor_cfg (s : State) (k n : Byte) (p : Bool) : (s.setCursor k n p).cfg = s.cfg := rfl
@[simp] theorem State.setCursor_y (s : State) (k n : Byte) (p : Bool) : (s.setCursor k n p).y = s.y := rfl
@[simp] theorem State.setCursor_phE (s : State) (k n : Byte) (p : Bool) : (s.setCursor k n p).phE = s.phE := rfl
@[simp] theorem State.setCursor_phH (s : State) (k n : Byte) (p : Bool) : (s.setCursor k n p).phH = s.phH := rfl
@[simp] theorem State.setCursor_buf (s : State) (k n : Byte) (p : Bool) : (s.setCursor k n p).buf = s.buf := rfl
@[simp] theorem State.setCursor_slen (s : State) (k n : Byte) (p : Bool) : (s.setCursor k n p).slen = s.slen := rfl
@[simp] theorem State.setCursor_nidx (s : State) (k n : Byte) (p : Bool) : (s.setCursor k n p).nidx = k := rfl
@[simp] theorem State.setCursor_ncnt (s : State) (k n : Byte) (p : Bool) : (s.setCursor k n p).ncnt = n := rfl
@[simp] theorem State.setCursor_hinc (s : State) (k n : Byte) (p : Bool) : (s.setCursor k n p).hinc = s.hinc := rfl
@[simp] theorem State.setCursor_playing (s : State) (k n : Byte) (p : Bool) : (s.setCursor k n p).playing = p := rfl
@[simp] theorem State.setCursor_pressed (s : State) (k n : Byte) (p : Bool) : (s.setCursor k n p).pressed = s.pressed := rfl
@[simp] theorem State.setCursor_clicks (s : State) (k n : Byte) (p : Bool) : (s.setCursor k n p).clicks = s.clicks := rfl
@[simp] theorem State.setCursor_result (s : State) (k n : Byte) (p : Bool) : (s.setCursor k n p).result = s.result := rfl
@[simp] theorem State.setCursor_fault (s : State) (k n : Byte) (p : Bool) : (s.setCursor k n p).fault = s.fault := rfl
@[simp] theorem State.setCursor_pending (s : State) (k n : Byte) (p : Bool) : (s.setCursor k n p).pending = s.pending := rfl
@[simp] theorem State.setCursor_lastRead (s : State) (k n : Byte) (p : Bool) : (s.setCursor k n p).lastRead = s.lastRead := rfl
@[simp] theorem State.setCursor_freeCount (s : State) (k n : Byte) (p : Bool) : (s.setCursor k n p).freeCount = s.freeCount := rfl

@[simp] theorem State.setHinc_cfg (s : State) (v : Nat) : (s.setHinc v).cfg = s.cfg := rfl
@[simp] theorem State.setHinc_y (s : State) (v : Nat) : (s.setHinc v).y = s.y := rfl
@[simp] theorem State.setHinc_phE (s : State) (v : Nat) : (s.setHinc v).phE = s.phE := rfl
@[simp] theorem State.setHinc_phH (s : State) (v : Nat) : (s.setHinc v).phH = s.phH := rfl
@[simp] theorem State.setHinc_buf (s : State) (v : Nat) : (s.setHinc v).buf = s.buf := rfl
@[simp] theorem State.setHinc_slen (s : State) (v : Nat) : (s.setHinc v).slen = s.slen := rfl
@[simp] theorem State.setHinc_nidx (s : State) (v : Nat) : (s.setHinc v).nidx = s.nidx := rfl
@[simp] theorem State.setHinc_ncnt (s : State) (v : Nat) : (s.setHinc v).ncnt = s.ncnt := rfl
@[simp] theorem State.setHinc_hinc (s : State) (v : Nat) : (s.setHinc v).hinc = v := rfl
@[simp] theorem State.setHinc_playing (s : State) (v : Nat) : (s.setHinc v).playing = s.playing := rfl
@[simp] theorem State.setHinc_pressed (s : State) (v : Nat) : (s.setHinc v).pressed = s.pressed := rfl
@[simp] theorem State.setHinc_clicks (s : State) (v : Nat) : (s.setHinc v).clicks = s.clicks := rfl
@[simp] theorem State.setHinc_result (s : State) (v : Nat) : (s.setHinc v).result = s.result := rfl
@[simp] theorem State.setHinc_fault (s : State) (v : Nat) : (s.setHinc v).fault = s.fault := rfl
@[simp] theorem State.setHinc_pending (s : State) (v : Nat) : (s.setHinc v).pending = s.pending := rfl
@[simp] theorem State.setHinc_lastRead (s : State) (v : Nat) : (s.setHinc v).lastRead = s.lastRead := rfl
@[simp] theorem State.setHinc_freeCount (s : State) (v : Nat) : (s.setHinc v).freeCount = s.freeCount := rfl

@[simp] theorem State.setFault_cfg (s : State) (r : Fault) : (s.setFault r).cfg = s.cfg := rfl
@[simp] theorem State.setFault_y (s : State) (r : Fault) : (s.setFault r).y = s.y := rfl
@[simp] theorem State.setFault_phE (s : State) (r : Fault) : (s.setFault r).phE = s.phE := rfl
@[simp] theorem State.setFault_phH (s : State) (r : Fault) : (s.setFault r).phH = s.phH := rfl
@[simp] theorem State.setFault_buf (s : State) (r : Fault) : (s.setFault r).buf = s.buf := rfl
@[simp] theorem State.setFault_slen (s : State) (r : Fault) : (s.setFault r).slen = s.slen := rfl
@[simp] theorem State.setFault_nidx (s : State) (r : Fault) : (s.setFault r).nidx = s.nidx := rfl
@[simp] theorem State.setFault_ncnt (s : State) (r : Fault) : (s.setFault r).ncnt = s.ncnt := rfl
@[simp] theorem State.setFault_hinc (s : State) (r : Fault) : (s.setFault r).hinc = s.hinc := rfl
@[simp] theorem State.setFault_playing (s : State) (r : Fault) : (s.setFault r).playing = s.playing := rfl
@[simp] theorem State.setFault_pressed (s : State) (r : Fault) : (s.setFault r).pressed = s.pressed := rfl
@[simp] theorem State.setFault_clicks (s : State) (r : Fault) : (s.setFault r).clicks = s.clicks := rfl
@[simp] theorem State.setFault_result (s : State) (r : Fault) : (s.setFault r).result = s.result := rfl
@[simp] theorem State.setFault_fault (s : State) (r : Fault) : (s.setFault r).fault = some r := rfl
@[simp] theorem State.setFault_pending (s : State) (r : Fault) : (s.setFault r).pending = s.pending := rfl
@[simp] theorem State.setFault_lastRead (s : State) (r : Fault) : (s.setFault r).lastRead = s.lastRead := rfl
@[simp] theorem State.setFault_freeCount (s : State) (r : Fault) : (s.setFault r).freeCount = s.freeCount := rfl

@[simp] theorem State.setPending_cfg (s : State) (l : List Access) : (s.setPending l).cfg = s.cfg := rfl
@[simp] theorem State.setPending_y (s : State) (l : List Access) : (s.setPending l).y = s.y := rfl
@[simp] theorem State.setPending_phE (s : State) (l : List Access) : (s.setPending l).phE = s.phE := rfl
@[simp] theorem State.setPending_phH (s : State) (l : List Access) : (s.setPending l).phH = s.phH := rfl
@[simp] theorem State.setPending_buf (s : State) (l : List Access) : (s.setPending l).buf = s.buf := rfl
@[simp] theorem State.setPending_slen (s : State) (l : List Access) : (s.setPending l).slen = s.slen := rfl
@[simp] theorem State.setPending_nidx (s : State) (l : List Access) : (s.setPending l).nidx = s.nidx := rfl
@[simp] theorem State.setPending_ncnt (s : State) (l : List Access) : (s.setPending l).ncnt = s.ncnt := rfl
@[simp] theorem State.setPending_hinc (s : State) (l : List Access) : (s.setPending l).hinc = s.hinc := rfl
@[simp] theorem State.setPending_playing (s : State) (l : List Access) : (s.setPending l).playing = s.playing := rfl
@[simp] theorem State.setPending_pressed (s : State) (l : List Access) : (s.setPending l).pressed = s.pressed := rfl
@[simp] theorem State.setPending_clicks (s : State) (l : List Access) : (s.setPending l).clicks = s.clicks := rfl
@[simp] theorem State.setPending_result (s : State) (l : List Access) : (s.setPending l).result = s.result := rfl
@[simp] theorem State.setPending_fault (s : State) (l : List Access) : (s.setPending l).fault = s.fault := rfl
@[simp] theorem State.setPending_pending (s : State) (l : List Access) : (s.setPending l).pending = l := rfl
@[simp] theorem State.setPending_lastRead (s : State) (l : List Access) : (s.setPending l).lastRead = s.lastRead := rfl
@[simp] theorem State.setPending_freeCount (s : State) (l : List Access) : (s.setPending l).freeCount = s.freeCount := rfl

@[simp] theorem State.setLastRead_cfg (s : State) (d : HostRead) : (s.setLastRead d).cfg = s.cfg := rfl
@[simp] theorem State.setLastRead_y (s : State) (d : HostRead) : (s.setLastRead d).y = s.y := rfl
@[simp] theorem State.setLastRead_phE (s : State) (d : HostRead) : (s.setLastRead d).phE = s.phE := rfl
@[simp] theorem State.setLastRead_phH (s : State) (d : HostRead) : (s.setLastRead d).phH = s.phH := rfl
@[simp] theorem State.setLastRead_buf (s : State) (d : HostRead) : (s.setLastRead d).buf = s.buf := rfl
@[simp] theorem State.setLastRead_slen (s : State) (d : HostRead) : (s.setLastRead d).slen = s.slen := rfl
@[simp] theorem State.setLastRead_nidx (s : State) (d : HostRead) : (s.setLastRead d).nidx = s.nidx := rfl
@[simp] theorem State.setLastRead_ncnt (s : State) (d : HostRead) : (s.setLastRead d).ncnt = s.ncnt := rfl
@[simp] theorem State.setLastRead_hinc (s : State) (d : HostRead) : (s.setLastRead d).hinc = s.hinc := rfl
@[simp] theorem State.setLastRead_playing (s : State) (d : HostRead) : (s.setLastRead d).playing = s.playing := rfl
@[simp] theorem State.setLastRead_pressed (s : State) (d : HostRead) : (s.setLastRead d).pressed = s.pressed := rfl
@[simp] theorem State.setLastRead_clicks (s : State) (d : HostRead) : (s.setLastRead d).clicks = s.clicks := rfl
@[simp] theorem State.setLastRead_result (s : State) (d : HostRead) : (s.setLastRead d).result = s.result := rfl
@[simp] theorem State.setLastRead_fault (s : State) (d : HostRead) : (s.setLastRead d).fault = s.fault := rfl
@[simp] theorem State.setLastRead_pending (s : State) (d : HostRead) : (s.setLastRead d).pending = s.pending := rfl
@[simp] theorem State.setLastRead_lastRead (s : State) (d : HostRead) : (s.setLastRead d).lastRead = d := rfl
@[simp] theorem State.setLastRead_freeCount (s : State) (d : HostRead) : (s.setLastRead d).freeCount = s.freeCount := rfl

@[simp] theorem State.bumpFree_cfg (s : State) : (s.bumpFree).cfg = s.cfg := rfl
@[simp] theorem State.bumpFree_y (s : State) : (s.bumpFree).y = s.y := rfl
@[simp] theorem State.bumpFree_phE (s : State) : (s.bumpFree).phE = s.phE := rfl
@[simp] theorem State.bumpFree_phH (s : State) : (s.bumpFree).phH = s.phH := rfl
@[simp] theorem State.bumpFree_buf (s : State) : (s.bumpFree).buf = s.buf := rfl
@[simp] theorem State.bumpFree_slen (s : State) : (s.bumpFree).slen = s.slen := rfl
@[simp] theorem State.bumpFree_nidx (s : State) : (s.bumpFree).nidx = s.nidx := rfl
@[simp] theorem State.bumpFree_ncnt (s : State) : (s.bumpFree).ncnt = s.ncnt := rfl
@[simp] theorem State.bumpFree_hinc (s : State) : (s.bumpFree).hinc = s.hinc := rfl
@[simp] theorem State.bumpFree_playing (s : State) : (s.bumpFree).playing = s.playing := rfl
@[simp] theorem State.bumpFree_pressed (s : State) : (s.bumpFree).pressed = s.pressed := rfl
@[simp] theorem State.bumpFree_clicks (s : State) : (s.bumpFree).clicks = s.clicks := rfl
@[simp] theorem State.bumpFree_result (s : State) : (s.bumpFree).result = s.result := rfl
@[simp] theorem State.bumpFree_fault (s : State) : (s.bumpFree).fault = s.fault := rfl
@[simp] theorem State.bumpFree_pending (s : State) : (s.bumpFree).pending = s.pending := rfl
@[simp] theorem State.bumpFree_lastRead (s : State) : (s.bumpFree).lastRead = s.lastRead := rfl
@[simp] theorem State.bumpFree_freeCount (s : State) : (s.bumpFree).freeCount = s.freeCount + 1 := rfl

@[simp] theorem State.resetWith_cfg (c : Config) : (State.resetWith c).cfg = c := rfl
@[simp] theorem State.resetWith_y (c : Config) : (State.resetWith c).y = 0 := rfl
@[simp] theorem State.resetWith_phE (c : Config) : (State.resetWith c).phE = 0 := rfl
@[simp] theorem State.resetWith_phH (c : Config) : (State.resetWith c).phH = 0 := rfl
@[simp] theorem State.resetWith_buf (c : Config) : (State.resetWith c).buf = List.replicate c.maxSongLen 0#8 := rfl
@[simp] theorem State.resetWith_slen (c : Config) : (State.resetWith c).slen = 0#8 := rfl
@[simp] theorem State.resetWith_nidx (c : Config) : (State.resetWith c).nidx = 0#8 := rfl
@[simp] theorem State.resetWith_ncnt (c : Config) : (State.resetWith c).ncnt = 0#8 := rfl
@[simp] theorem State.resetWith_hinc (c : Config) : (State.resetWith c).hinc = 0 := rfl
@[simp] theorem State.resetWith_playing (c : Config) : (State.resetWith c).playing = false := rfl
@[simp] theorem State.resetWith_pressed (c : Config) : (State.resetWith c).pressed = 0#3 := rfl
@[simp] theorem State.resetWith_clicks (c : Config) : (State.resetWith c).clicks = 0#3 := rfl
@[simp] theorem State.resetWith_result (c : Config) : (State.resetWith c).result = 0#16 := rfl
@[simp] theorem State.resetWith_fault (c : Config) : (State.resetWith c).fault = none := rfl
@[simp] theorem State.resetWith_pending (c : Config) : (State.resetWith c).pending = [] := rfl
@[simp] theorem State.resetWith_lastRead (c : Config) : (State.resetWith c).lastRead = .nothing := rfl
@[simp] theorem State.resetWith_freeCount (c : Config) : (State.resetWith c).freeCount = 0 := rfl

end Sys2Proof.Machine
end

