-- ==== Sys2Proof/Laws/Ops.lean ====
section
/-! SUPPORT. For each shared operation, once: everything it can do. Proofs cite these and do not unfold the operation. -/

namespace Sys2Proof.Machine

/-! Outcomes in sequence. -/

@[simp] theorem andThen_next (a : α) (k : α → Host.Outcome β Fault Refusal) : andThen (.next a) k = k a := rfl
@[simp] theorem andThen_fault (r : Fault) (k : α → Host.Outcome β Fault Refusal) : andThen (.fault r) k = .fault r := rfl
@[simp] theorem andThen_refused (r : Refusal) (k : α → Host.Outcome β Fault Refusal) :
    andThen (.refused r) k = .refused r := rfl

/-- A sequence answers a next state exactly when both its parts do. -/
theorem andThen_eq_next {o : Host.Outcome α Fault Refusal} {k : α → Host.Outcome β Fault Refusal} {b : β} :
    andThen o k = .next b ↔ ∃ a, o = .next a ∧ k a = .next b := by
  cases o <;> simp

/-! The button operand. -/

theorem withButton_named {btn : BitVec 2} (h : btn ≠ 3#2) (w : Word) (k : Nat → Host.Outcome State Fault Refusal) :
    withButton btn w k = k btn.toNat := if_neg h

theorem withButton_unnamed (w : Word) (k : Nat → Host.Outcome State Fault Refusal) :
    withButton 3#2 w k = .fault (.badButton w) := rfl

/-- If a query answers a next state, its operand names a button. -/
theorem withButton_eq_next {btn : BitVec 2} {w : Word} {k : Nat → Host.Outcome State Fault Refusal} {t : State} :
    withButton btn w k = .next t ↔ btn ≠ 3#2 ∧ k btn.toNat = .next t := by
  unfold withButton
  split <;> simp_all

/-! Readiness. -/

theorem whenReady_of {s : State} (hc : s.cfg.Valid) (hf : s.fault = none) (k : Host.Outcome State Fault Refusal) :
    whenReady s k = k := by
  simp only [whenReady, if_pos hc, hf]

theorem whenReady_afterFault {s : State} (hc : s.cfg.Valid) {r : Fault} (hf : s.fault = some r)
    (k : Host.Outcome State Fault Refusal) : whenReady s k = .refused (.afterFault r) := by
  simp only [whenReady, if_pos hc, hf]

theorem whenReady_invalid {s : State} (hc : ¬ s.cfg.Valid) (k : Host.Outcome State Fault Refusal) :
    whenReady s k = .refused .invalidConfiguration := if_neg hc

/-- If a guarded step answers a next state, the block was ready and the step answered it. -/
theorem whenReady_eq_next {s t : State} {k : Host.Outcome State Fault Refusal} :
    whenReady s k = .next t ↔ s.cfg.Valid ∧ s.fault = none ∧ k = .next t := by
  by_cases hc : s.cfg.Valid
  · cases hf : s.fault with
    | none =>
      rw [whenReady_of hc hf]
      exact ⟨fun h => ⟨hc, rfl, h⟩, fun h => h.2.2⟩
    | some r =>
      rw [whenReady_afterFault hc hf]
      exact ⟨nofun, fun h => nomatch h.2.1⟩
  · rw [whenReady_invalid hc]
    exact ⟨nofun, fun h => absurd h.1 hc⟩

/-! The command port and the other accesses. -/

theorem command_of_decode {w : Word} {i : Instr} (h : decode w = .ok i) (s : State) : command w s = exec i s := by
  simp only [command, h]

theorem command_illegal {w : Word} {e : Illegal} (h : decode w = .error e) (s : State) :
    command w s = .fault (.illegalCmd w) := by
  simp only [command, h]

/-- If a command word answers a next state, it decodes and its command answers it. -/
theorem command_eq_next {w : Word} {s t : State} :
    command w s = .next t ↔ ∃ i, decode w = .ok i ∧ exec i s = .next t := by
  cases h : decode w with
  | ok i => simp [command_of_decode h]
  | error e => simp [command_illegal h]

/-- Everything an access of the host can do when it answers a next state: a command's effect, a port read, or nothing. -/
theorem serve_next {a : Access} {s t : State} (h : serve a s = .next t) :
    (∃ i, exec i s = .next t) ∨
    (∃ d, t = (s.setLastRead d).bumpFree) ∨
    (∃ d, t = s.setLastRead d) ∨
    t = s := by
  cases a with
  | writeCmd w => exact .inl ((command_eq_next.mp h).imp fun _ hi => hi.2)
  | readCmd => exact .inr (.inl ⟨_, (Host.Outcome.next.inj h).symm⟩)
  | readResult => exact .inr (.inr (.inl ⟨_, (Host.Outcome.next.inj h).symm⟩))
  | writeResult w => exact .inr (.inr (.inr (Host.Outcome.next.inj h).symm))
  | busRead addr width =>
    simp only [serve, busReadPort] at h
    split at h
    · exact .inr (.inl ⟨_, (Host.Outcome.next.inj h).symm⟩)
    · exact .inr (.inr (.inl ⟨_, (Host.Outcome.next.inj h).symm⟩))
    · cases h
  | busWrite addr bytes =>
    simp only [serve, busWritePort] at h
    split at h
    · exact .inl ((command_eq_next.mp h).imp fun _ hi => hi.2)
    · exact .inr (.inr (.inr (Host.Outcome.next.inj h).symm))
    · cases h

/-- Everything a step can do when it answers a next state: wait, or serve the host's oldest access. -/
theorem step_next {s t : State} (h : step s = .next t) :
    s.cfg.Valid ∧ s.fault = none ∧
      ((s.pending = [] ∧ t = s) ∨ ∃ a rest, s.pending = a :: rest ∧ serve a (s.setPending rest) = .next t) := by
  obtain ⟨hc, hf, hk⟩ := whenReady_eq_next.mp h
  refine ⟨hc, hf, ?_⟩
  cases hp : s.pending with
  | nil => exact .inl ⟨rfl, by simpa [hp] using hk.symm⟩
  | cons a rest => exact .inr ⟨a, rest, rfl, by simpa [hp] using hk⟩

/-! Table reads. -/

theorem entry_of_lt {t : List Byte} {k : Nat} (h : k < t.length) : entry t k = t[k] := by
  simp [entry, h]

theorem noteIncOf_eq {c : Config} (hc : c.Valid) (code : Byte) : some (noteIncOf c code) = c.noteInc[code.toNat]? := by
  have hl : code.toNat < c.noteInc.length := by
    rw [hc.noteInc_length]
    exact code.isLt
  simp [noteIncOf, hl]

/-- A note's increment stays below the horn track's length, so one subtraction wraps the phase. -/
theorem noteIncOf_lt {c : Config} (hc : c.Valid) (code : Byte) : noteIncOf c code < c.lH := by
  have hm := List.mem_of_getElem? (noteIncOf_eq hc code).symm
  simpa using List.all_eq_true.mp hc.noteInc_lt _ hm

/-! The saturating limiter. -/

theorem clamp_bounds (x : Int) {lo hi : Int} (h : lo ≤ hi) : lo ≤ clamp x lo hi ∧ clamp x lo hi ≤ hi := by
  simp only [clamp]
  omega

/-! Masks. -/

/-- Clearing bit `b` clears it and leaves every other bit. -/
theorem maskBit_clearBit (m : ButtonMask) (b k : Nat) (hk : k < 3) :
    maskBit (clearBit m b) k = (maskBit m k && decide (k ≠ b)) := by
  simp only [maskBit, clearBit, BitVec.getLsbD_and, BitVec.getLsbD_not, BitVec.getLsbD_shiftLeft, hk,
    BitVec.getLsbD_one]
  by_cases h : k = b
  · simp [h]
  · rcases Nat.lt_or_gt_of_ne h with h' | h'
    · simp [h, h']
    · have : k - b ≠ 0 := by omega
      simp [h, this]

/-- A bit is pending after LAD.SET if it was, or if its button rises. -/
theorem maskBit_latchClicks (c p n : ButtonMask) (k : Nat) (hk : k < 3) :
    maskBit (latchClicks c p n) k = (maskBit c k || (maskBit n k && !maskBit p k)) := by
  have h7 : (0b111#3).getLsbD k = true := by
    match k, hk with
    | 0, _ => rfl
    | 1, _ => rfl
    | 2, _ => rfl
  simp only [maskBit, latchClicks, risingEdges, BitVec.getLsbD_or, BitVec.getLsbD_and, BitVec.getLsbD_not, h7, hk]
  cases c.getLsbD k <;> cases p.getLsbD k <;> cases n.getLsbD k <;> rfl

/-! Runs. -/

@[simp] theorem runInstrs_nil (s : State) : runInstrs [] s = .next s := rfl

@[simp] theorem runInstrs_cons (i : Instr) (is : List Instr) (s : State) :
    runInstrs (i :: is) s = andThen (exec i s) (runInstrs is) := rfl

/-- A run of two parts is the second part on the state the first part leaves. -/
theorem runInstrs_append (is js : List Instr) (s : State) :
    runInstrs (is ++ js) s = andThen (runInstrs is s) (runInstrs js) := by
  induction is generalizing s with
  | nil => rfl
  | cons i is ih =>
    simp only [List.cons_append, runInstrs_cons]
    cases h : exec i s <;> simp [ih]

end Sys2Proof.Machine
end

