-- ==== Sys2Proof/Laws/Exec.lean ====
section
/-! SUPPORT. What each command can do, once: its frame, and one case analysis of `exec` that proofs cite without unfolding
a meaning. With it the arithmetic facts of the units that most proofs need. -/

namespace Sys2Proof.Machine

/-! A step that serves an access. -/

/-- A ready block serves the oldest access, which is then off the queue. -/
theorem step_of_ready {s : State} (h : s.Ready) {a : Access} {rest : List Access} (hp : s.pending = a :: rest) :
    step s = serve a (s.setPending rest) := by
  simp only [step, serveNext, whenReady_of h.1 h.2, hp]

/-- An access past the ports, not two bytes wide or at an odd address reaches no port. -/
theorem locate_refused {c : Config} {addr width : Nat} (h1 : c.portBase ≤ addr)
    (h : c.portBase + 4 ≤ addr ∨ width ≠ 2 ∨ addr % 2 = 1) : ∃ r, locate c addr width = .error r := by
  unfold locate
  split_ifs <;> first | exact ⟨_, rfl⟩ | omega

theorem locate_cmd {c : Config} (h : c.Valid) : locate c c.portBase 2 = .ok .cmd := by
  have := h.portBase_even
  unfold locate
  split_ifs <;> first | rfl | omega

theorem locate_result {c : Config} (h : c.Valid) : locate c (c.portBase + 2) 2 = .ok .result := by
  have := h.portBase_even
  unfold locate
  split_ifs <;> first | rfl | omega

/-! Frames of the two song commands. -/

theorem hornTick_frame (s : State) : ∃ k n p h,
    exec .hornTick s = .next { s with nidx := k, ncnt := n, playing := p, hinc := h } := by
  simp only [exec, execHornTick, advanceNote]
  split
  · split <;> exact ⟨_, _, _, _, rfl⟩
  · exact ⟨_, _, _, _, rfl⟩

theorem hornPlay_frame (s : State) (id : Byte) : ∃ b l k n p h,
    exec (.hornPlay id) s = .next { s with buf := b, slen := l, nidx := k, ncnt := n, playing := p, hinc := h } := by
  simp only [exec, execHornPlay]
  split <;> exact ⟨_, _, _, _, _, _, rfl⟩

/-- Everything a command can do when it answers a next state. -/
theorem exec_cases {i : Instr} {s t : State} (h : exec i s = .next t) :
    (i = .nop ∧ t = s) ∨
    (∃ v c, i = .ladSet v ∧ t = { s with pressed := bandMask s.cfg v.toNat, clicks := c }) ∨
    (∃ b, i = .ladPressed b ∧ b ≠ 3#2 ∧ t = { s with result := zextBit (maskBit s.pressed b.toNat) }) ∨
    (∃ b, i = .ladClicked b ∧ b ≠ 3#2 ∧
      t = { s with result := zextBit (maskBit s.clicks b.toNat), clicks := clearBit s.clicks b.toNat }) ∨
    (∃ a sp, i = .lpfStep a sp ∧ t = { s with y := lpfNext s.cfg a.toNat sp.toNat s.y }) ∨
    (i = .lpfGet ∧ t = { s with result := zext16 (publicSpeed s) }) ∨
    (∃ v m, i = .oscSample v ∧
      t = { s with
        phE := (engineTick s.cfg v.toNat s.phE).1,
        phH := (hornTrackTick s.cfg s.playing s.hinc s.phH).1,
        result := zext16 m }) ∨
    (∃ id b l k n p h, i = .hornPlay id ∧
      t = { s with buf := b, slen := l, nidx := k, ncnt := n, playing := p, hinc := h }) ∨
    (∃ k n p h, i = .hornTick ∧ t = { s with nidx := k, ncnt := n, playing := p, hinc := h }) := by
  cases i with
  | nop => exact .inl ⟨rfl, (Host.Outcome.next.inj h).symm⟩
  | ladSet v => exact .inr (.inl ⟨v, _, rfl, (Host.Outcome.next.inj h).symm⟩)
  | ladPressed b =>
    obtain ⟨hb, h⟩ := withButton_eq_next.mp (show execLadPressed b s = _ from h)
    exact .inr (.inr (.inl ⟨b, rfl, hb, (Host.Outcome.next.inj h).symm⟩))
  | ladClicked b =>
    obtain ⟨hb, h⟩ := withButton_eq_next.mp (show execLadClicked b s = _ from h)
    exact .inr (.inr (.inr (.inl ⟨b, rfl, hb, (Host.Outcome.next.inj h).symm⟩)))
  | lpfStep a sp => exact .inr (.inr (.inr (.inr (.inl ⟨a, sp, rfl, (Host.Outcome.next.inj h).symm⟩))))
  | lpfGet => exact .inr (.inr (.inr (.inr (.inr (.inl ⟨rfl, (Host.Outcome.next.inj h).symm⟩)))))
  | oscSample v =>
    exact .inr (.inr (.inr (.inr (.inr (.inr (.inl ⟨v, _, rfl, (Host.Outcome.next.inj h).symm⟩))))))
  | hornPlay id =>
    obtain ⟨b, l, k, n, p, v, e⟩ := hornPlay_frame s id
    rw [e] at h
    exact .inr (.inr (.inr (.inr (.inr (.inr (.inr (.inl
      ⟨id, b, l, k, n, p, v, rfl, (Host.Outcome.next.inj h).symm⟩)))))))
  | hornTick =>
    obtain ⟨k, n, p, v, e⟩ := hornTick_frame s
    rw [e] at h
    exact .inr (.inr (.inr (.inr (.inr (.inr (.inr (.inr ⟨k, n, p, v, rfl, (Host.Outcome.next.inj h).symm⟩)))))))

/-! The units' arithmetic. -/

/-- Inside a table, a table read gives the entry. -/
theorem entry_eq_getElem? {t : List Byte} {k : Nat} (h : k < t.length) : t[k]? = some (entry t k) := by
  rw [entry_of_lt h]
  exact List.getElem?_eq_getElem h

theorem average_toNat (a b : Byte) : (average a b).toNat = (a.toNat + b.toNat) / 2 := by
  have := a.isLt
  have := b.isLt
  simp only [average, BitVec.toNat_ofNat, Nat.shiftRight_eq_div_pow]
  omega

/-- A phase below `l` and an increment below `l` wrap by at most one subtraction. -/
theorem add_mod_wrap {p d l : Nat} (hp : p < l) (hd : d < l) : (p + d) % l = if p + d < l then p + d else p + d - l := by
  split
  · exact Nat.mod_eq_of_lt ‹_›
  · rw [Nat.mod_eq_sub_mod (by omega), Nat.mod_eq_of_lt (by omega)]

/-- The filter's shifts as a product and a quotient. -/
theorem lpfNext_eq (c : Config) (a sp y : Nat) : lpfNext c a sp y = (y * 2 ^ a - y + sp * 2 ^ c.extraBits) / 2 ^ a := by
  simp only [lpfNext, Nat.shiftLeft_eq, Nat.shiftRight_eq_div_pow]

/-- The song of a playable id is the library's. -/
theorem playableNotes_eq_some {c : Config} {id : Byte} {notes : List Byte} :
    playableNotes c id = some notes ↔ c.songLib[id.toNat]? = some notes ∧ 1 ≤ notes.length := by
  unfold playableNotes
  cases h : c.songLib[id.toNat]? with
  | none => simp
  | some l =>
    simp only
    split
    · simp only [Option.some.injEq]
      exact ⟨fun e => ⟨e, e ▸ ‹_›⟩, fun e => e.1⟩
    · simp only [reduceCtorEq, Option.some.injEq, false_iff, not_and]
      rintro rfl
      assumption

end Sys2Proof.Machine
end

