-- ==== Sys2Proof/Laws/Host.lean ====
section
/-! SUPPORT. What each procedure of the host's program can do to the system when it answers a next state
(48_host_controller). -/

namespace Sys2Proof.Machine

/-! The guard of every procedure. -/

theorem whenHostValid_of {p : HostParams} {c : Config} (hc : c.Valid) (hp : p.Valid c) (k : Host.Outcome α Fault Refusal) :
    whenHostValid p c k = k := by
  rw [whenHostValid, if_pos hc, if_pos hp]

theorem whenHostValid_invalid {p : HostParams} {c : Config} (h : ¬ (c.Valid ∧ p.Valid c))
    (k : Host.Outcome α Fault Refusal) :
    whenHostValid p c k = .refused (if c.Valid then .invalidHostParameters else .invalidConfiguration) := by
  unfold whenHostValid
  split
  · rename_i hc
    exact if_neg fun hp => h ⟨hc, hp⟩
  · rfl

/-- If a guarded procedure answers a value, configuration and parameters are valid and its body answers it. -/
theorem whenHostValid_eq_next {p : HostParams} {c : Config} {k : Host.Outcome α Fault Refusal} {a : α} :
    whenHostValid p c k = .next a ↔ c.Valid ∧ p.Valid c ∧ k = .next a := by
  by_cases h : c.Valid ∧ p.Valid c
  · rw [whenHostValid_of h.1 h.2]
    exact ⟨fun e => ⟨h.1, h.2, e⟩, fun e => e.2.2⟩
  · rw [whenHostValid_invalid h]
    exact ⟨nofun, fun e => absurd ⟨e.1, e.2.1⟩ h⟩

theorem runHost_of {sys : System} (h : sys.Valid) (k : HostOutcome) : runHost sys k = k := whenHostValid_of h.1 h.2 k

theorem runHost_eq_next {sys t : System} {k : HostOutcome} : runHost sys k = .next t ↔ sys.Valid ∧ k = .next t :=
  whenHostValid_eq_next.trans and_assoc.symm

/-! The procedures. -/

/-- Issuing a command changes nothing beside the block. -/
theorem issue_next {i : Instr} {sys t : System} (h : issue i sys = .next t) : ∃ b, t = { sys with block := b } := by
  obtain ⟨b, _, h⟩ := andThen_eq_next.mp h
  exact ⟨b, (Host.Outcome.next.inj h).symm⟩

theorem playHornSong_next {id : Byte} {sys t : System} (h : playHornSong id sys = .next t) :
    ∃ b, t = { sys with block := b } := by
  obtain ⟨_, h⟩ := runHost_eq_next.mp h
  split at h
  · cases h
    exact ⟨_, rfl⟩
  · exact issue_next h

theorem getSpeed_next {sys t : System} {k : Byte → System → HostOutcome} (h : getSpeed sys k = .next t) :
    ∃ v b, k v { sys with block := b } = .next t := by
  obtain ⟨u, h1, h2⟩ := andThen_eq_next.mp (runHost_eq_next.mp h).2
  obtain ⟨b, rfl⟩ := issue_next h1
  exact ⟨_, b, h2⟩

/-- Setting the speed changes the setpoint alone, and it only while RUNNING. -/
theorem setSpeedSetpoint_next {raw : Byte} {sys t : System} (h : setSpeedSetpoint raw sys = .next t) :
    sys.Valid ∧ (t = sys ∨ sys.eng.status = .running ∧ t = { sys with eng := { sys.eng with
      sp := BitVec.ofInt 8 (clamp (raw.toNat : Int) (sys.par.idle.toNat : Int) (sys.par.max.toNat : Int)) } }) := by
  obtain ⟨hv, h⟩ := runHost_eq_next.mp h
  refine ⟨hv, ?_⟩
  split at h <;> cases h
  · exact .inr ⟨‹_›, rfl⟩
  · exact .inl rfl
  · exact .inl rfl

theorem setIgnitionPosition_next {pos : Ignition} {sys t : System} (h : setIgnitionPosition pos sys = .next t) :
    t = { sys with eng := { sys.eng with ign := pos } } :=
  (Host.Outcome.next.inj (runHost_eq_next.mp h).2).symm

theorem systemReset_next {p : HostParams} {c : Config} {t : System} (h : systemReset p c = .next t) :
    c.Valid ∧ p.Valid c ∧ t = idleSystem p c := by
  obtain ⟨hc, hp, h⟩ := whenHostValid_eq_next.mp h
  exact ⟨hc, hp, (Host.Outcome.next.inj h).symm⟩

theorem queryBit_next {i : Instr} {sys t : System} {k : Bool → System → HostOutcome} (h : queryBit i sys k = .next t) :
    ∃ v b, k v { sys with block := b } = .next t := by
  obtain ⟨u, h1, h2⟩ := andThen_eq_next.mp h
  obtain ⟨b, rfl⟩ := issue_next h1
  exact ⟨_, b, h2⟩

/-- Reading the light changes only the light and the block. -/
theorem ledOn_next {sys t : System} (h : ledOn sys = .next t) : ∃ b l, t = { sys with block := b, light := l } := by
  obtain ⟨_, h⟩ := runHost_eq_next.mp h
  split at h
  · obtain ⟨v, b, h⟩ := getSpeed_next h
    cases h
    exact ⟨_, _, rfl⟩
  · cases h
    exact ⟨_, _, rfl⟩

/-- Horn timing changes only the horn counter and the block. -/
theorem hornTiming_next {sys t : System} (h : hornTiming sys = .next t) :
    ∃ b n, t = { sys with block := b, eng := { sys.eng with hornCnt := n } } := by
  unfold hornTiming at h
  simp only at h
  split at h
  · obtain ⟨b, rfl⟩ := playHornSong_next h
    exact ⟨_, _, rfl⟩
  · split at h
    · obtain ⟨u, h1, h2⟩ := andThen_eq_next.mp h
      obtain ⟨b, rfl⟩ := playHornSong_next h1
      cases h2
      exact ⟨_, 0, rfl⟩
    · cases h
      exact ⟨sys.block, _, rfl⟩

end Sys2Proof.Machine
end

