-- ==== Sys2Proof/Laws/PerInstr.lean ====
section
/-! SUPPORT. One statement about every command, proved constructor by constructor: its word stands in its own row of the
opcode map (30_encoding R74). -/

namespace Sys2Proof.Laws.TableRow

/-- The command's word has the bits of the table row with its mnemonic. -/
def Statement (i : Instr) : Prop := ∃ r ∈ opcodeTable, r.mnemonic = i.mnemonic ∧ r.covers (encode i) = true

theorem nop : Statement .nop := ⟨⟨"NOP", 0x0000#16, 0xFFFF#16⟩, by decide, rfl, by decide⟩

theorem ladSet (v : Byte) : Statement (.ladSet v) :=
  ⟨⟨"LAD.SET", 0x1000#16, 0xFF00#16⟩, by decide, rfl, by revert v; decide⟩

theorem ladPressed (btn : BitVec 2) : Statement (.ladPressed btn) :=
  ⟨⟨"LAD.PRESSED", 0x2000#16, 0xFFFC#16⟩, by decide, rfl, by revert btn; decide⟩

theorem ladClicked (btn : BitVec 2) : Statement (.ladClicked btn) :=
  ⟨⟨"LAD.CLICKED", 0x3000#16, 0xFFFC#16⟩, by decide, rfl, by revert btn; decide⟩

theorem lpfStep (a : BitVec 4) (sp : Byte) : Statement (.lpfStep a sp) :=
  ⟨⟨"LPF.STEP", 0x4000#16, 0xF000#16⟩, by decide, rfl, by revert a sp; decide +kernel⟩

theorem lpfGet : Statement .lpfGet := ⟨⟨"LPF.GET", 0x5000#16, 0xFFFF#16⟩, by decide, rfl, by decide⟩

theorem oscSample (v : Byte) : Statement (.oscSample v) :=
  ⟨⟨"OSC.SAMPLE", 0x6000#16, 0xFF00#16⟩, by decide, rfl, by revert v; decide⟩

theorem hornPlay (id : Byte) : Statement (.hornPlay id) :=
  ⟨⟨"HORN.PLAY", 0x7000#16, 0xFF00#16⟩, by decide, rfl, by revert id; decide⟩

theorem hornTick : Statement .hornTick := ⟨⟨"HORN.TICK", 0x8000#16, 0xFFFF#16⟩, by decide, rfl, by decide⟩

end Sys2Proof.Laws.TableRow
end

