-- ==== Sys2Proof/Laws/Words.lean ====
section
/-! SUPPORT. The fields of an encoded word are what the encoder put there, format by format (30_encoding R71). -/

namespace Sys2Proof

theorem opField_wordZ (op : BitVec 4) : opField (wordZ op) = op ∧ (wordZ op).extractLsb' 0 12 = 0#12 := by
  revert op; decide

theorem fields_wordI8 (op : BitVec 4) (v : Byte) :
    opField (wordI8 op v) = op ∧ (wordI8 op v).extractLsb' 8 4 = 0#4 ∧ imm8Field (wordI8 op v) = v := by
  revert op v; decide +kernel

theorem fields_wordB2 (op : BitVec 4) (b : BitVec 2) :
    opField (wordB2 op b) = op ∧ (wordB2 op b).extractLsb' 2 10 = 0#10 ∧ btnField (wordB2 op b) = b := by
  revert op b; decide

theorem fields_wordS4I8 (op a : BitVec 4) (v : Byte) :
    opField (wordS4I8 op a v) = op ∧ shiftField (wordS4I8 op a v) = a ∧ imm8Field (wordS4I8 op a v) = v := by
  refine ⟨?_, ?_, ?_⟩ <;>
    refine BitVec.eq_of_getLsbD_eq fun k hk => ?_ <;>
    simp only [opField, shiftField, imm8Field, wordS4I8, BitVec.getLsbD_extractLsb', BitVec.getLsbD_append, hk,
      decide_true, Bool.true_and] <;>
    grind

/-- A word is its opcode nibble, its shift nibble and its immediate byte. -/
theorem word_fields (w : Word) : wordS4I8 (opField w) (shiftField w) (imm8Field w) = w := by
  refine BitVec.eq_of_getLsbD_eq fun k hk => ?_
  simp only [opField, shiftField, imm8Field, wordS4I8, BitVec.getLsbD_extractLsb', BitVec.getLsbD_append]
  grind

/-- A statement about all words follows from its cases by field. -/
theorem forall_words {P : Word → Prop} (h : ∀ (op a : BitVec 4) (v : Byte), P (wordS4I8 op a v)) (w : Word) : P w :=
  word_fields w ▸ h _ _ _

/-- Two words with the same fields are the same word. -/
theorem word_ext {w w' : Word} (h1 : opField w = opField w') (h2 : shiftField w = shiftField w')
    (h3 : imm8Field w = imm8Field w') : w = w' := by
  rw [← word_fields w, ← word_fields w', h1, h2, h3]

end Sys2Proof
end

