-- ==== Sys2Proof/Tests/Slice0.lean ====
section
/-! SUPPORT. Tests of the model. Expected values come from spec/95_test_vectors.md (the vector's name stands in the comment)
or, for words, from the encoding tables of spec/30_encoding.md written out bit by bit. The second half is the witnesses: for
every statement with hypotheses, a concrete input that meets them, at the boundary values of each clause. -/

namespace Sys2Proof.Tests

open Sys2Proof Sys2Proof.Machine

/-! Well-formedness: the button id 3 is the one ill-formed operand, and each range check of the assembler refuses. -/

theorem test_wellFormed_button_three :
    Instr.wellFormed (.ladPressed 3#2) = false ∧ Instr.wellFormed (.ladClicked 3#2) = false := by decide

theorem test_wellFormed_buttons :
    ∀ b : BitVec 2, b ≠ 3#2 → Instr.wellFormed (.ladPressed b) = true ∧ Instr.wellFormed (.ladClicked b) = true := by decide

theorem test_assembler_ranges :
    asmInRange (.ladSet 256) = false ∧ asmInRange (.ladPressed 3) = false ∧ asmInRange (.ladClicked 3) = false ∧
    asmInRange (.lpfStep 16 0) = false ∧ asmInRange (.lpfStep 0 256) = false ∧ asmInRange (.oscSample 256) = false ∧
    asmInRange (.hornPlay 256) = false ∧ asmInRange (.word 65536) = false ∧ asmInRange (.lpfFast 256) = false ∧
    asmInRange (.lpfMed 256) = false ∧ asmInRange (.lpfSlow 256) = false := by decide

/-! Decoding, words written bit by bit from R71 and R74 (opcode, then the format's fields). -/

theorem test_decode_nop : decode 0b0000_000000000000#16 = .ok .nop := by decide
theorem test_decode_ladSet : decode 0b0001_0000_00111100#16 = .ok (.ladSet 60#8) := by decide
theorem test_decode_ladPressed : decode 0b0010_0000000000_10#16 = .ok (.ladPressed 2#2) := by decide
theorem test_decode_ladClicked : decode 0b0011_0000000000_01#16 = .ok (.ladClicked 1#2) := by decide
theorem test_decode_lpfStep : decode 0b0100_0011_01000000#16 = .ok (.lpfStep 3#4 64#8) := by decide
theorem test_decode_lpfGet : decode 0b0101_000000000000#16 = .ok .lpfGet := by decide
theorem test_decode_oscSample : decode 0b0110_0000_11001000#16 = .ok (.oscSample 200#8) := by decide
theorem test_decode_hornPlay : decode 0b0111_0000_00000001#16 = .ok (.hornPlay 1#8) := by decide
theorem test_decode_hornTick : decode 0b1000_000000000000#16 = .ok .hornTick := by decide

/-- V-ENC-DECODE: words with a reserved-zero bit set. -/
theorem test_decode_reserved_bits :
    ([0x0001#16, 0x0800#16, 0x113C#16, 0x1F00#16, 0x2004#16, 0x2100#16, 0x3008#16, 0x5001#16, 0x5800#16, 0x6100#16,
      0x7100#16, 0x8001#16].all fun w => decide (decode w = .error .reservedBits)) = true := by decide

/-- V-ENC-DECODE: reserved opcodes. -/
theorem test_decode_reserved_opcodes : 
    ([0x9000#16, 0xA5A5#16, 0xFFFF#16].all fun w => decide (decode w = .error .reservedOpcode)) = true := by decide

/-- V-ENC-DECODE: the words of button id 3 decode. -/
theorem test_decode_button_three :
    decode 0x2003#16 = .ok (.ladPressed 3#2) ∧ decode 0x3003#16 = .ok (.ladClicked 3#2) := by decide

/-- V-ENC-DECODE: the top of two immediate ranges. -/
theorem test_encode_extremes : encode (.lpfStep 15#4 255#8) = 0x4FFF#16 ∧ encode (.hornPlay 255#8) = 0x70FF#16 := by decide

theorem test_decodeTableWord : decodeTableWord 16 0x4340 = some (.lpfStep 3#4 64#8) ∧ decodeTableWord 16 0x9000 = none := by decide

/-- V-ENC-ASM and the syntax of R84: case, hexadecimal, button names, comments. -/
theorem test_assemble_lines :
    assembleLine .reference "LPF.MED 32".toList = .ok (some 0x4320#16) ∧
    assembleLine .reference "lpf.slow 0xC8 ; comment".toList = .ok (some 0x44C8#16) ∧
    assembleLine .reference "LAD.CLICKED C".toList = .ok (some 0x3002#16) ∧
    assembleLine .reference ".word 0x2003".toList = .ok (some 0x2003#16) ∧
    assembleLine .reference "; nothing".toList = .ok none := by decide +kernel

theorem test_assemble_refusals :
    assembleLine .reference "LAD.PRESSED 3".toList = .error .outOfRange ∧
    assembleLine .reference "LPF.STEP 3".toList = .error .wrongOperands ∧
    assembleLine .reference "LAD.SET x".toList = .error .badOperand ∧
    assembleLine .reference "JUMP 0".toList = .error .unknownMnemonic := by decide +kernel

/-! One command each, on a small state. -/

/-- A field of the state after a command, none where it does not complete. -/
def after (i : Instr) (s : State) (f : State → α) : Option α := (nextState? (exec i s)).map f

/-- Reset with one song field pattern: song 0 of V-HORN-SONG0 at note `k`, tick `n`. -/
def song0 (k n : Byte) (inc : Nat) : State :=
  { State.reset with
    buf := [40#8, 0#8, 40#8, 0#8, 0#8, 0#8, 0#8, 0#8], slen := 3#8, nidx := k, ncnt := n, hinc := inc, playing := true }

/-- V-CTL-NOP. -/
theorem test_nop_keeps_result : after .nop { State.reset with result := 1#16 } State.result = some 1#16 := by decide

/-- V-LAD-EDGE: band 2 to band 3 raises B only; the earlier clicks stay. -/
theorem test_ladSet_edge :
    after (.ladSet 200#8) { State.reset with pressed := 0b101#3, clicks := 0b101#3 } (fun t => (t.pressed, t.clicks)) =
      some (0b011#3, 0b111#3) := by decide

/-- V-LAD-BAND: both sides of every threshold. -/
theorem test_bands :
    [0, 31, 32, 95, 96, 159, 160, 223, 224, 255].map (bandMask .reference) =
      [0b000#3, 0b000#3, 0b001#3, 0b001#3, 0b101#3, 0b101#3, 0b011#3, 0b011#3, 0b111#3, 0b111#3] := by decide

/-- V-LAD-QUERY after `LAD.SET 200`. -/
theorem test_ladPressed_start : after (.ladPressed 1#2) { State.reset with pressed := 0b011#3 } State.result = some 1#16 := by decide
theorem test_ladPressed_horn : after (.ladPressed 2#2) { State.reset with pressed := 0b011#3 } State.result = some 0#16 := by decide

/-- P6 row 8: HORN is reported and cleared, the click of ON stays. -/
theorem test_ladClicked_clears_one :
    after (.ladClicked 2#2) { State.reset with clicks := 0b101#3 } (fun t => (t.result, t.clicks)) = some (1#16, 0b001#3) := by decide

/-- V-LAD-QUERY: button id 3. -/
theorem test_button_three_faults :
    faultOf? (exec (.ladPressed 3#2) State.reset) = some (.badButton 0x2003#16) ∧
    faultOf? (exec (.ladClicked 3#2) State.reset) = some (.badButton 0x3003#16) := by decide

/-- V-LPF-STEP: the largest accumulator. -/
theorem test_lpfStep_largest : after (.lpfStep 15#4 255#8) { State.reset with y := 4095 } State.y = some 4094 := by decide

/-- V-LPF-STEP: from above, floor of a negative quotient. -/
theorem test_lpfStep_from_above : after (.lpfStep 2#4 255#8) { State.reset with y := 4095 } State.y = some 4091 := by decide

/-- V-LPF-GET. -/
theorem test_lpfGet_truncates : after .lpfGet { State.reset with y := 1017 } (fun t => (t.result, t.y)) = some (63#16, 1017) := by decide

/-- V-OSC-SAMPLE row "16, 64, horn 0, 1, 64": the high clamp. -/
theorem test_oscSample_clamps :
    after (.oscSample 64#8) { State.reset with phE := 16, playing := true, hinc := 64 } (fun t => (t.result, t.phE, t.phH)) =
      some (255#16, 32, 64) := by decide

/-- V-OSC-SAMPLE row "120, 64": the engine phase wraps into a middle third. -/
theorem test_oscSample_wraps :
    after (.oscSample 64#8) { State.reset with phE := 120 } (fun t => (t.result, t.phE)) = some (173#16, 8) := by decide

/-- V-OSC-THIRDS and V-OSC-HORN-INTERP: both sides of the thirds, and the wrap of the upper neighbour. -/
theorem test_interp_thirds :
    [5, 6, 10, 11].map (interp Config.reference.engTable 4) = [128#8, 173#8, 173#8, 218#8] ∧
    [21, 22, 42, 43, 255].map (interp Config.reference.hornTable 6) = [128#8, 191#8, 191#8, 255#8, 128#8] := by decide

/-- R146: the low clamp, engine 0 with horn 0. -/
theorem test_mix_low_clamp : mix 0#8 0#8 = 0#8 ∧ mix 218#8 191#8 = 255#8 ∧ mix 128#8 128#8 = 128#8 := by decide

/-- V-HORN-PLAY: a restart leaves the buffer beyond the new song. -/
theorem test_hornPlay_restart :
    after (.hornPlay 1#8) (song0 1#8 1#8 0) (fun t => (t.buf.take 3, t.slen, t.nidx, t.ncnt, t.hinc)) =
      some ([40#8, 0#8, 40#8], 1#8, 0#8, 0#8, 40) := by decide +kernel

/-- V-HORN-PLAY: an unplayable id. -/
theorem test_hornPlay_unplayable : nextState? (exec (.hornPlay 255#8) (song0 0#8 1#8 40)) = some (song0 0#8 1#8 40) := by
  decide +kernel

/-- V-HORN-SONG0 tick 5: the rest ends after its three ticks. -/
theorem test_hornTick_next_note :
    after .hornTick (song0 1#8 2#8 0) (fun t => (t.nidx, t.ncnt, t.playing, t.hinc)) = some (2#8, 0#8, true, 40) := by decide +kernel

/-- V-HORN-SONG0 tick 7: the song stops past its last note. -/
theorem test_hornTick_stops :
    after .hornTick (song0 2#8 1#8 40) (fun t => (t.nidx, t.ncnt, t.playing, t.hinc)) = some (3#8, 0#8, false, 0) := by decide +kernel

/-! Steps and ports. -/

/-- The reset state with a queue of accesses. -/
def queued (l : List Access) : State := { State.reset with pending := l }

theorem queued_ready (l : List Access) : (queued l).Ready := ⟨Config.reference_valid, rfl⟩

/-- Reset with the fault of the word 0x9000 recorded. -/
def faulted : State := { State.reset with fault := some (.illegalCmd 0x9000#16) }

/-- A step on one queued access serves it. -/
theorem step_queued (a : Access) : step (queued [a]) = serve a (queued []) := step_of_ready (queued_ready _) rfl


/-- P1 row 1, from reset through the command port. -/
theorem test_step_runs_word : (nextState? (step (State.reset.withFetchWord 16 0x4340))).map State.y = some 128 := by
  rw [show State.reset.withFetchWord 16 0x4340 = queued [.writeCmd 0x4340#16] from rfl, step_queued]
  decide

/-- V-EXC: an illegal word faults, is recorded, and ends the run. -/
theorem test_step_illegal :
    (queued [.writeCmd 0x9000#16]).afterStep = faulted ∧ step faulted = .refused (.afterFault (.illegalCmd 0x9000#16)) := by
  refine ⟨?_, by rw [step, serveNext, whenReady_afterFault (s := faulted) Config.reference_valid rfl]⟩
  rw [State.afterStep, step_queued, show serve (.writeCmd 0x9000#16) (queued []) = .fault (.illegalCmd 0x9000#16) from rfl]
  rfl

/-- R52, R53: the command word 0x4340 as two bytes, little-endian, and RESULT 0x0102 read big-endian. -/
theorem test_bus_lanes :
    (nextState? (step (queued [.busWrite 0 [0x40#8, 0x43#8]]))).map State.y = some 128 ∧
    laneBytes .big 0x0102#16 = [1#8, 2#8] ∧ laneBytes .little 0x0102#16 = [2#8, 1#8] := by
  rw [step_queued]
  decide

/-- R54: reserved, narrow and misaligned accesses are refused. -/
theorem test_bus_refusals :
    refusalOf? (step (queued [.busRead 4 2])) = some .reservedOffset ∧
    refusalOf? (step (queued [.busRead 2 1])) = some .notFullWidth ∧
    refusalOf? (step (queued [.busWrite 1 [0#8, 0#8]])) = some .misaligned := by
  rw [step_queued, step_queued, step_queued]
  decide

/-! The host's program: one procedure each. -/

/-- The host RUNNING with the ignition ON, at the end of W3. -/
def running : System :=
  { idleSystem .reference .reference with
    eng := { status := .running, sp := 64#8, ign := .on, crank := 101, hornCnt := 0, blink := 0 },
    block := { State.reset with y := 569 } }

theorem running_valid : running.Valid := ⟨Config.reference_valid, HostParams.reference_valid⟩

/-- W1. -/
theorem test_setpoint_clamp :
    [10#8, 63#8, 64#8, 240#8, 241#8].map (fun raw => (nextState? (setSpeedSetpoint raw running)).map fun t => t.eng.sp) =
      [some 64#8, some 64#8, some 64#8, some 240#8, some 240#8] := by
  simp only [setSpeedSetpoint, runHost_of running_valid]
  decide

/-- W3 call 102: the counter must exceed MIN_CRANK_TICKS, and the filter takes the new setpoint. -/
theorem test_update_enters_running :
    (nextState? (update { running with
      eng := { running.eng with status := .cranking, sp := 32#8, ign := .start, crank := 100 },
      block := { State.reset with y := 505 } })).map (fun t => (t.eng.status, t.eng.crank, t.eng.sp, t.block.y)) =
      some (.running, 101, 64#8, 569) := by decide +kernel

/-- W4 call 127: the double honk at half the horn cycle. -/
theorem test_update_double_honk :
    (nextState? (update { running with
      eng := { running.eng with sp := 200#8, hornCnt := 124 }, block := { State.reset with y := 3185 } })).map
        (fun t => (t.eng.hornCnt, t.block.slen, t.block.playing)) = some (125, 3#8, true) := by decide +kernel

/-- V-HOST-RUN: the ignition OFF sets OFF with no filter step. -/
theorem test_update_ignition_off :
    (nextState? (update { running with eng := { running.eng with ign := .off }, block := { State.reset with y := 3185 } })).map
      (fun t => (t.eng.status, t.eng.sp, t.block.y)) = some (.off, 0#8, 3185) := by decide +kernel

/-- V-HOST-DUTY. -/
theorem test_duty :
    [0#8, 63#8, 64#8, 71#8, 72#8, 73#8, 199#8, 240#8, 255#8].map (dutyValue .reference) = [0, 0, 0, 0, 68, 68, 131, 152, 159] := by decide

/-- W9: six flashes over one blink cycle at steady RUNNING speed. -/
theorem test_light_pattern :
    (List.range 25).map (fun n => (nextState? (ledOn { running with
      eng := { running.eng with blink := n }, block := { State.reset with y := 3185 } })).map System.light) =
      (List.range 25).map (fun n => some (decide (n < 12) && decide (n % 2 = 1))) := by decide +kernel

/-- R214, R221: a pass with a due sample runs OSC.SAMPLE and every N_DIV passes the slow work. -/
theorem test_mainPass_slow_path :
    (nextState? (mainPass referenceInputMap 200#8 60#8 { running with sampleDue := true, div := 319 })).map
      (fun t => (t.div, t.audioOut, t.eng.ign, t.eng.sp, t.block.clicks)) =
      some (0, 128#8, .on, 200#8, 0b001#3) := by decide +kernel

/-! Witnesses. `test_witness_<statement>` shows inputs that meet the hypotheses of that statement, clause by clause. -/

/-- A stopped block with these accumulators, song 0 played to its end. -/
def quiet (y e h : Nat) : State :=
  { State.reset with y := y, phE := e, phH := h, buf := [40#8, 0#8, 40#8, 0#8, 0#8, 0#8, 0#8, 0#8], slen := 3#8, nidx := 3#8 }

theorem quiet_inv {y e h : Nat} (hy : y < 4096) (he : e < 128) (hh : h < 256) : (quiet y e h).Inv where
  cfg := Config.reference_valid
  y := hy
  phE := he
  phH := hh
  buf := rfl
  nidx := show (3#8 : Byte) ≤ 3#8 by decide
  slen := show (3#8 : Byte).toNat ≤ 8 by decide
  playing := nofun
  ncnt := show (0#8 : Byte).toNat < 3 by decide
  idle := fun _ => rfl
  hinc := rfl
  pressed := ⟨0#8, rfl⟩
  result := show (0#16).toNat < 256 by decide

theorem song0_inv {k n : Byte} {inc : Nat} (hk : k < 3#8) (hn : n < 3#8)
    (hi : inc = noteIncOf .reference (entry [40#8, 0#8, 40#8, 0#8, 0#8, 0#8, 0#8, 0#8] k.toNat)) : (song0 k n inc).Inv where
  cfg := Config.reference_valid
  y := show 0 < 4096 by decide
  phE := show 0 < 128 by decide
  phH := show 0 < 256 by decide
  buf := rfl
  nidx := BitVec.le_of_lt hk
  slen := show (3#8 : Byte).toNat ≤ 8 by decide
  playing := fun _ => hk
  ncnt := hn
  idle := nofun
  hinc := hi
  pressed := ⟨0#8, rfl⟩
  result := show (0#16).toNat < 256 by decide

theorem test_witness_DecodedWordIsEncoding : decode 0x10FF#16 = .ok (.ladSet 255#8) := by decide

theorem test_witness_OpcodeMapDecodes :
    (∀ r ∈ opcodeTable, 0x9000#16 &&& r.mask ≠ r.bits) ∧ (∀ r ∈ opcodeTable, 0x0001#16 &&& r.mask ≠ r.bits) ∧
    ∃ r ∈ opcodeTable, 0x10FF#16 &&& r.mask = r.bits := by
  refine ⟨?_, ?_, ⟨"LAD.SET", 0x1000#16, 0xFF00#16⟩, ?_, ?_⟩ <;> simp [opcodeTable]

/-- The first and the last word of each clause of the decode order. -/
theorem test_witness_DecodeDecidesInOrder :
    9 ≤ ((0x9000#16).extractLsb' 12 4).toNat ∧ 9 ≤ ((0xFFFF#16).extractLsb' 12 4).toNat ∧
    (((0x0001#16).extractLsb' 12 4).toNat ∈ [0, 5, 8] ∧ (0x0001#16).extractLsb' 0 12 ≠ 0#12) ∧
    (((0x1100#16).extractLsb' 12 4).toNat ∈ [1, 6, 7] ∧ (0x1100#16).extractLsb' 8 4 ≠ 0#4) ∧
    (((0x3004#16).extractLsb' 12 4).toNat ∈ [2, 3] ∧ (0x3004#16).extractLsb' 2 10 ≠ 0#10) ∧
    ((0x4FFF#16).extractLsb' 12 4).toNat = 4 ∧
    (((0x8000#16).extractLsb' 12 4).toNat ∈ [0, 5, 8] ∧ (0x8000#16).extractLsb' 0 12 = 0#12) ∧
    (((0x70FF#16).extractLsb' 12 4).toNat ∈ [1, 6, 7] ∧ (0x70FF#16).extractLsb' 8 4 = 0#4) ∧
    (((0x2003#16).extractLsb' 12 4).toNat ∈ [2, 3] ∧ (0x2003#16).extractLsb' 2 10 = 0#10) := by decide

theorem test_witness_illegal_word_queued :
    decode 0x0001#16 = .error .reservedBits ∧ (queued [.writeCmd 0x0001#16]).Ready ∧
    (queued [.writeCmd 0x0001#16]).pending = .writeCmd 0x0001#16 :: [] := ⟨by decide, queued_ready _, rfl⟩

theorem test_witness_ReservedOpcodesFault :
    0x9000#16 ≤ 0x9000#16 ∧ 0x9000#16 ≤ 0xFFFF#16 ∧ (queued [.writeCmd 0x9000#16]).Ready ∧
    (queued [.writeCmd 0x9000#16]).pending = .writeCmd 0x9000#16 :: [] := ⟨by decide, by decide, queued_ready _, rfl⟩

/-- One bound of each interval, and the two other kinds of word. -/
theorem test_witness_ReservedBitWordsCounted :
    ([0x0FFF#16, 0x5001#16, 0x8FFF#16, 0x1100#16, 0x6FFF#16, 0x7100#16, 0x2004#16, 0x3FFF#16].all fun w =>
      decide (decode w = .error .reservedBits)) = true ∧
    (queued [.writeCmd 0x2003#16]).Ready ∧ (queued [.writeCmd 0x2003#16]).pending = .writeCmd 0x2003#16 :: [] ∧
    decode 0x4FFF#16 = .ok (.lpfStep 15#4 255#8) ∧ (Instr.lpfStep 15#4 255#8).wellFormed = true :=
  ⟨by decide, queued_ready _, rfl, by decide, rfl⟩

theorem test_witness_AssembledCommandsAreWellFormed :
    asmInRange (.ladPressed 2) = true ∧ (∀ w, AsmCommand.ladPressed 2 ≠ .word w) ∧
    parseLine "LAD.PRESSED C".toList = .ok (some (.ladPressed 2)) ∧
    parseLine "LAD.PRESSED 3".toList = .ok (some (.ladPressed 3)) ∧ asmInRange (.ladPressed 3) = false :=
  ⟨by decide, nofun, by decide +kernel, by decide +kernel, by decide⟩

/-- Both sides of each range of R84. -/
theorem test_witness_assembler_ranges :
    parseLine "LAD.SET 255".toList = .ok (some (.ladSet 255)) ∧ parseLine "LAD.SET 256".toList = .ok (some (.ladSet 256)) ∧
    parseLine "LPF.SLOW 256".toList = .ok (some (.lpfSlow 256)) ∧
    parseLine "LPF.STEP 15, 255".toList = .ok (some (.lpfStep 15 255)) ∧
    parseLine "LPF.STEP 16, 0".toList = .ok (some (.lpfStep 16 0)) := by decide +kernel

theorem test_witness_StepRunsDecodedCommand :
    (State.reset.withFetchWord 16 0x4340).Ready ∧
    (State.reset.withFetchWord 16 0x4340).pending = .writeCmd 0x4340#16 :: [] ∧
    decode 0x4340#16 = .ok (.lpfStep 3#4 64#8) := ⟨⟨Config.reference_valid, rfl⟩, rfl, by decide⟩

theorem test_witness_QueuedCommandsRunInIssueOrder :
    (queued ([.ladSet 60#8, .ladClicked 0#2].map fun i => .writeCmd (encode i))).Ready := queued_ready _

theorem test_witness_BlockWaitsForHost : (queued []).Ready ∧ (queued []).pending = [] := ⟨queued_ready _, rfl⟩

theorem test_witness_InvalidConfigurationRefused :
    ¬ (State.resetWith { Config.reference with maxSongLen := 0 }).cfg.Valid := fun h => by
  have := Config.Valid.maxSongLen_pos h
  exact absurd this (by decide)

/-- For each clause, an access at the edge of its range: the first reserved offset, a narrow access, an odd address. -/
theorem test_witness_PortAccessesDefinedOrRefused :
    (queued [.writeResult 7#16]).Ready ∧ (queued [.readResult]).Ready ∧ (queued [.readCmd]).Ready ∧
    (queued [.busRead Config.reference.portBase 2]).Ready ∧ (queued [.busRead 4 2]).Ready ∧ Config.reference.portBase + 4 ≤ 4 ∧
    (queued [.busRead 3 2]).Ready ∧ 3 % 2 = 1 ∧
    (queued [.busWrite 2 [0#8]]).Ready ∧ [0#8].length ≠ 2 ∧
    (queued [.busWrite (Config.reference.portBase + 2) [0#8, 0#8]]).Ready ∧ [0#8, 0#8].length = 2 :=
  ⟨queued_ready _, queued_ready _, queued_ready _, queued_ready _, queued_ready _, by decide, queued_ready _, by decide, queued_ready _,
    by decide, queued_ready _, rfl⟩

theorem test_witness_BusAccessIsWordAccess :
    0x0102#16 = 0x01#8 ++ 0x02#8 ∧
    ({ queued [] with result := 0x0102#16 } : State).Ready ∧
    ({ queued [] with result := 0x0102#16 } : State).cfg.portByteOrder = .little ∧
    (State.resetWith { Config.reference with portByteOrder := .big }).Ready ∧
    (State.resetWith { Config.reference with portByteOrder := .big }).cfg.portByteOrder = .big :=
  ⟨by decide, ⟨Config.reference_valid, rfl⟩, rfl, ⟨by decide +kernel, rfl⟩, rfl⟩

theorem test_witness_step_faults : faultOf? (step (queued [.writeCmd 0x3003#16])) = some (.badButton 0x3003#16) := by
  rw [step_queued]
  decide

theorem test_witness_FaultsAreSticky :
    ({ queued [.readResult] with fault := some (.badButton 0x2003#16) } : State).cfg.Valid := Config.reference_valid

theorem test_witness_ResetConsequences :
    Config.reference.Valid ∧ (0#2 ≠ 3#2) ∧ (2#2 ≠ 3#2) ∧ (bandMask .reference (255#8).toNat).getLsbD (2#2).toNat = true :=
  ⟨Config.reference_valid, by decide, by decide, by decide⟩

/-- A stopped block, with LPF.GET queued. -/
def quietGet : State := { quiet 1023 0 0 with pending := [.writeCmd 0x5000#16] }

theorem test_witness_StepKeepsInvariants :
    quietGet.Inv ∧ (nextState? (step quietGet)).map State.result = some 63#16 := by
  have h := quiet_inv (y := 1023) (e := 0) (h := 0) (by decide) (by decide) (by decide)
  refine ⟨⟨h.cfg, h.y, h.phE, h.phH, h.buf, h.nidx, h.slen, h.playing, h.ncnt, h.idle, h.hinc, h.pressed, h.result⟩, ?_⟩
  rw [step_of_ready (s := quietGet) ⟨h.cfg, rfl⟩ rfl]
  decide

/-- The premise `exec i s = .next t` of the frame statements, with a field that does change. -/
theorem test_witness_frames :
    after (.ladClicked 0#2) { State.reset with clicks := 0b001#3 } (fun t => (t.result, t.clicks)) = some (1#16, 0#3) ∧
    after (.hornPlay 1#8) State.reset (fun t => (t.slen, t.playing)) = some (1#8, true) ∧
    after (.lpfStep 0#4 1#8) State.reset State.y = some 16 ∧
    after (.oscSample 4#8) State.reset State.phE = some 1 ∧
    after (.ladSet 255#8) State.reset (fun t => (t.pressed, t.clicks)) = some (0b111#3, 0b111#3) := by decide +kernel

theorem test_witness_ResultRegisterRules :
    ((queued [.readResult]).Ready ∧ (queued [.readResult]).pending = .readResult :: []) ∧
    ((queued [.writeResult 9#16]).Ready ∧ (queued [.writeResult 9#16]).pending = .writeResult 9#16 :: []) ∧
    ((queued [.busWrite 2 [1#8, 2#8]]).Ready ∧
      (queued [.busWrite 2 [1#8, 2#8]]).pending = .busWrite (Config.reference.portBase + 2) [1#8, 2#8] :: []) :=
  ⟨⟨queued_ready _, rfl⟩, ⟨queued_ready _, rfl⟩, ⟨queued_ready _, rfl⟩⟩

theorem test_witness_WellFormedCommandsComplete :
    (Instr.ladClicked 2#2).wellFormed = true ∧ (Instr.ladClicked 3#2).wellFormed = false := by decide

theorem test_witness_NopChangesNothing : 0x0001#16 ≤ 0x0001#16 ∧ 0x0FFF#16 ≤ 0x0FFF#16 ∧ 0x0001#16 ≤ 0x0FFF#16 := by decide

/-- Every band at its first and its last sample. -/
theorem test_witness_LadderBandsDecode :
    State.reset.cfg.Valid ∧
    (31#8).toNat < Config.reference.b1 ∧ Config.reference.b1 ≤ (32#8).toNat ∧ (95#8).toNat < Config.reference.b2 ∧
    Config.reference.b2 ≤ (96#8).toNat ∧ (159#8).toNat < Config.reference.b3 ∧ Config.reference.b3 ≤ (160#8).toNat ∧
    (223#8).toNat < Config.reference.b4 ∧ Config.reference.b4 ≤ (224#8).toNat :=
  ⟨Config.reference_valid, by decide, by decide, by decide, by decide, by decide, by decide, by decide, by decide⟩

theorem test_witness_LadSetEdgeLaw :
    after (.ladSet 60#8) State.reset State.clicks = some 0b001#3 ∧ (quiet 1 1 1).cfg = State.reset.cfg := ⟨by decide, rfl⟩

theorem test_witness_button_ids : (2#2 ≠ 3#2) ∧ (3#2 = 3#2) ∧ (0 : Nat) < 3 ∧ (0 : Nat) ≠ (2#2).toNat := by decide

/-- A LAD.SET followed by commands of which none is one, and a run from reset with none. -/
theorem test_witness_LadPressedReadsMask :
    (∀ v, Instr.ladSet v ∉ [Instr.ladClicked 0#2, .hornTick]) ∧
    (nextState? (runInstrs (.ladSet 60#8 :: [.ladClicked 0#2, .hornTick]) State.reset)).map State.pressed = some 0b001#3 ∧
    (nextState? (runInstrs [.ladClicked 0#2, .hornTick] State.reset)).map State.pressed = some 0#3 :=
  ⟨by simp, by decide, by decide⟩

theorem test_witness_ButtonIdThreeFaults :
    (queued [.writeCmd 0x3003#16]).Ready ∧ (queued [.writeCmd 0x3003#16]).pending = .writeCmd 0x3003#16 :: [] :=
  ⟨queued_ready _, rfl⟩

/-- A press of ON, with a query of another button and a release before the read, and a held button after it. -/
theorem test_witness_ClickReportedExactlyOnce :
    (0#2 ≠ 3#2) ∧ raises 0 (.ladSet 60#8) State.reset = true ∧
    (∀ i ∈ [Instr.ladClicked 1#2, .ladSet 0#8], i.wellFormed = true ∧ i ≠ .ladClicked 0#2) ∧
    (∀ j ∈ [Instr.nop, .ladSet 0#8], j.wellFormed = true) ∧ neverRaises 0 [.nop, .ladSet 0#8] State.reset = true :=
  ⟨by decide, by decide, by simp [Instr.wellFormed, namesButton], by simp [Instr.wellFormed], by decide⟩

/-- Each clause's premises at its edges: `T = 1024` at `sp = 64`, so `y` is `T`, `T + 1`, and below `T` by 1, 7 (stalls at
`a = 3`) and 8 (moves). -/
theorem test_witness_LpfConvergenceLaws :
    1024 = (64#8).toNat * 2 ^ (quiet 1024 0 0).cfg.extraBits ∧ (quiet 1024 0 0).y = 1024 ∧ (quiet 1023 0 0).y ≤ 1024 ∧
    1024 ≤ (quiet 1025 0 0).y ∧ 1024 < (quiet 1025 0 0).y ∧
    (1 ≤ (3#4).toNat ∧ (quiet 1017 0 0).y < 1024 ∧ 1024 - (quiet 1017 0 0).y < 2 ^ (3#4).toNat) ∧
    2 ^ (3#4).toNat ≤ 1024 - (quiet 1016 0 0).y ∧ (0#4).toNat = 0 ∧
    (1 ≤ (4#4).toNat ∧ (4#4).toNat ≤ (quiet 0 0 0).cfg.extraBits ∧ 1 ≤ (64#8).toNat ∧ (quiet 0 0 0).y < 1024) := by decide

theorem test_witness_LpfStepIncrementalForm : (0#8).toNat * 2 ^ (quiet 1 0 0).cfg.extraBits < (quiet 1 0 0).y := by decide

theorem test_witness_LpfNeverOverflows :
    (quiet 0 0 0).y < 2 ^ (quiet 0 0 0).cfg.wF ∧ (quiet 4095 0 0).y < 2 ^ (quiet 4095 0 0).cfg.wF := by decide

theorem test_witness_LpfCornerCases :
    4080 = (255#8).toNat * 2 ^ (quiet 4095 0 0).cfg.extraBits ∧ (quiet 4095 0 0).y = 2 ^ (quiet 4095 0 0).cfg.wF - 1 ∧
    (quiet 4095 0 0).cfg.extraBits = 4 ∧ 0 = (0#8).toNat * 2 ^ (quiet 3 0 0).cfg.extraBits ∧ (quiet 3 0 0).y = 3 ∧
    (quiet 1 0 0).y = 1 ∧ 1 ≤ (2#4).toNat ∧ (quiet 0 0 0).y = 0 ∧ 4080 < 2 ^ (12#4).toNat ∧
    (quiet 2000 0 0).cfg.wF < (13#4).toNat ∧ (quiet 2000 0 0).y ≤ 4080 ∧ 0 < (quiet 2000 0 0).y := by decide

theorem test_witness_LpfGetReadsPublicSpeed :
    (quiet 1023 0 0).y < 2 ^ (quiet 1023 0 0).cfg.wF ∧ (quiet 1023 0 0).cfg.extraBits = 4 ∧ (quiet 1023 0 0).y = 1023 ∧
    (State.resetWith { Config.reference with extraBits := 0 }).cfg.extraBits = 0 := by decide

/-- The last phase of the track, and the first and last offset of each third at `F = 4`. -/
theorem test_witness_InterpolationThirds :
    127 < Config.reference.engTable.length * 2 ^ 4 ∧ 3 * (5 % 2 ^ 4) < 2 ^ 4 ∧
    (2 ^ 4 ≤ 3 * (6 % 2 ^ 4) ∧ 3 * (10 % 2 ^ 4) < 2 ^ 5) ∧ 2 ^ 5 ≤ 3 * (11 % 2 ^ 4) ∧ 2 ^ 5 ≤ 3 * (127 % 2 ^ 4) := by decide

/-- Speed 0, a zero increment (3), and both sides of the wrap. -/
theorem test_witness_EngineTrackAdvances :
    (quiet 0 127 0).Inv ∧ (quiet 0 127 0).playing = false ∧ (3#8 ≠ 0#8) ∧ (3#8).toNat / 2 ^ (quiet 0 127 0).cfg.engShift = 0 ∧
    (quiet 0 126 0).phE + (4#8).toNat / 2 ^ (quiet 0 126 0).cfg.engShift < (quiet 0 126 0).cfg.lE ∧
    ¬ (quiet 0 127 0).phE + (4#8).toNat / 2 ^ (quiet 0 127 0).cfg.engShift < (quiet 0 127 0).cfg.lE :=
  ⟨quiet_inv (by decide) (by decide) (by decide), rfl, by decide, by decide, by decide, by decide⟩

/-- A sounding note, a rest, and no song. -/
theorem test_witness_HornTrackAdvances :
    ((song0 0#8 0#8 40).Inv ∧ (song0 0#8 0#8 40).playing = true ∧ (song0 0#8 0#8 40).hinc ≠ 0) ∧
    ((song0 1#8 0#8 0).Inv ∧ (song0 1#8 0#8 0).hinc = 0) ∧ ((quiet 0 0 255).Inv ∧ (quiet 0 0 255).playing = false) :=
  ⟨⟨song0_inv (by decide) (by decide) (by decide +kernel), rfl, by decide⟩,
    ⟨song0_inv (by decide) (by decide) (by decide +kernel), rfl⟩,
    ⟨quiet_inv (by decide) (by decide) (by decide), rfl⟩⟩

theorem test_witness_OscSampleMixesTracks :
    engineTick .reference 64 16 = (32, 255#8) ∧ hornTrackTick .reference true 64 0 = (64, 255#8) := by decide

theorem test_witness_TracksAreIndependent :
    (nextState? (runInstrs [.hornPlay 1#8, .oscSample 64#8, .oscSample 0#8] State.reset)).map (fun t => (t.phE, t.phH)) =
      some (0, 80) := by decide +kernel

/-- The last playable id and the first id outside the library. -/
theorem test_witness_UnplayableSongsIgnored :
    State.reset.cfg.songLib[(2#8).toNat]? = none ∧ State.reset.cfg.songLib[(1#8).toNat]? = some [40#8] := by decide

theorem test_witness_HornPlayStartsSong :
    (quiet 0 0 0).Inv ∧ (∀ notes, (quiet 0 0 0).cfg.songLib[(2#8).toNat]? = some notes → notes = []) ∧ (quiet 0 0 0).cfg.songLib[(0#8).toNat]? = some [40#8, 0#8, 40#8] ∧ 1 ≤ [40#8, 0#8, 40#8].length :=
  ⟨quiet_inv (by decide) (by decide) (by decide), nofun, by decide, by decide⟩

theorem test_witness_NoteDurations : Config.reference.Valid ∧ (0#8 = 0#8) ∧ (1#8 ≠ 0#8) :=
  ⟨Config.reference_valid, rfl, by decide⟩

/-- Stopped; within a note; at the last tick of a note before the last; at the last tick of the last note. -/
theorem test_witness_HornTickAdvancesSequencer :
    ((quiet 0 0 0).Inv ∧ (quiet 0 0 0).playing = false) ∧
    ((song0 1#8 1#8 0).Inv ∧ (song0 1#8 1#8 0).ncnt.toNat + 1 < Config.reference.durRest) ∧
    ((song0 1#8 2#8 0).Inv ∧ Config.reference.durRest ≤ (song0 1#8 2#8 0).ncnt.toNat + 1 ∧
      (song0 1#8 2#8 0).nidx.toNat + 1 < (song0 1#8 2#8 0).slen.toNat) ∧
    ((song0 2#8 1#8 40).Inv ∧ Config.reference.durNote ≤ (song0 2#8 1#8 40).ncnt.toNat + 1 ∧
      (song0 2#8 1#8 40).slen.toNat ≤ (song0 2#8 1#8 40).nidx.toNat + 1) :=
  ⟨⟨quiet_inv (by decide) (by decide) (by decide), rfl⟩,
    ⟨song0_inv (by decide) (by decide) (by decide +kernel), by decide⟩,
    ⟨song0_inv (by decide) (by decide) (by decide +kernel), by decide, by decide⟩,
    ⟨song0_inv (by decide) (by decide) (by decide +kernel), by decide, by decide⟩⟩

theorem test_witness_TickWhileStoppedChangesNothing : (quiet 9 9 9).Inv ∧ (quiet 9 9 9).playing = false :=
  ⟨quiet_inv (by decide) (by decide) (by decide), rfl⟩

/-- V-HORN-SONG0: the notes start at ticks 0, 2 and 5, and the song stops at tick 7. -/
theorem test_witness_SongPlaysEachNoteForItsDuration :
    (quiet 0 0 0).Inv ∧ (quiet 0 0 0).cfg.songLib[(0#8).toNat]? = some [40#8, 0#8, 40#8] ∧
    [0, 1, 2, 3].map (ticksBefore .reference [40#8, 0#8, 40#8]) = [0, 2, 5, 7] :=
  ⟨quiet_inv (by decide) (by decide) (by decide), by decide, by decide⟩

/-- RUNNING and not, and both bounds of the clamp. -/
theorem test_witness_SetpointClampedWhileRunning :
    running.Valid ∧ running.eng.status = .running ∧
    (idleSystem .reference .reference).Valid ∧ (idleSystem .reference .reference).eng.status ≠ .running ∧
    63#8 < running.par.idle ∧ running.par.idle ≤ 64#8 ∧ 240#8 ≤ running.par.max ∧ running.par.max < 241#8 :=
  ⟨running_valid, rfl, ⟨Config.reference_valid, HostParams.reference_valid⟩, nofun, by decide, by decide, by decide,
    by decide⟩

theorem test_witness_HornRequestGatedByIgnition :
    (running.Valid ∧ running.block.fault = none ∧ running.eng.ign ≠ .off) ∧
    ((idleSystem .reference .reference).Valid ∧ (idleSystem .reference .reference).block.fault = none ∧
      (idleSystem .reference .reference).eng.ign = .off) :=
  ⟨⟨running_valid, rfl, nofun⟩, ⟨⟨Config.reference_valid, HostParams.reference_valid⟩, rfl, rfl⟩⟩

theorem test_update_running_completes : (nextState? (update running)).isSome = true := by decide +kernel

theorem test_getSpeed_completes : (nextState? (getSpeed running fun _ u => .next u)).isSome = true := by decide +kernel

theorem test_ledOn_completes : (nextState? (ledOn running)).isSome = true := by decide +kernel

/-- Each procedure completes from a state with the invariant (the slow pass under the reference map: test_mainPass_slow_path),
and the map that does nothing keeps the invariant. -/
theorem test_witness_SetpointInvariantKept :
    setpointInv running ∧ systemReset .reference .reference = .next (idleSystem .reference .reference) ∧
    (nextState? (update running)).isSome = true ∧
    (nextState? (getSpeed running fun _ u => .next u)).isSome = true ∧ (nextState? (ledOn running)).isSome = true ∧
    audioCallback running = .next { running with sampleDue := true } ∧
    playHornSong 1#8 (idleSystem .reference .reference) = .next (idleSystem .reference .reference) ∧
    mainPass referenceInputMap 0#8 0#8 running = .next running ∧
    (∀ (x : Byte) (u w : System), setpointInv u → (fun _ u => .next u : InputMap) x u = .next w → setpointInv w) :=
  ⟨⟨by decide, by decide⟩, whenHostValid_of Config.reference_valid HostParams.reference_valid _,
    test_update_running_completes, test_getSpeed_completes, test_ledOn_completes, runHost_of running_valid _,
    runHost_of (sys := idleSystem .reference .reference) ⟨Config.reference_valid, HostParams.reference_valid⟩ _,
    runHost_of running_valid _, fun _ _ _ h e => Host.Outcome.next.inj e ▸ h⟩

/-- The parameters, the counters' bounds, and the first and last call of each clause (n = 0, 100, 101). -/
theorem test_witness_CrankingEndsAndCountersBounded :
    HostParams.reference.Valid .reference ∧ Config.reference.Valid ∧ counterInv running ∧
    (nextState? (update running)).isSome = true ∧ 100 ≤ HostParams.reference.minCrankTicks ∧
    HostParams.reference.minCrankTicks + 1 ≤ 101 :=
  ⟨HostParams.reference_valid, Config.reference_valid, ⟨by decide, nofun, by decide, by decide⟩,
    test_update_running_completes, by decide, by decide⟩

theorem test_witness_MotorDutyShaped :
    Config.reference.Valid ∧ HostParams.reference.Valid .reference ∧ 71#8 < HostParams.reference.effects ∧
    HostParams.reference.effects ≤ 72#8 :=
  ⟨Config.reference_valid, HostParams.reference_valid, by decide, by decide⟩

theorem test_witness_UpdateAlwaysCompletes : running.Valid ∧ running.block.fault = none := ⟨running_valid, rfl⟩

/-- Host parameters with IDLE = 0 under a valid configuration, and a configuration without a buffer. -/
theorem test_witness_InvalidHostParametersRefused :
    ¬ System.Valid { running with par := { HostParams.reference with idle := 0#8 } } ∧
    ¬ (idleSystem .reference { Config.reference with maxSongLen := 0 }).Valid :=
  ⟨fun h => absurd h.2.1.1 (by decide), fun h => absurd (Config.Valid.maxSongLen_pos h.1) (by decide)⟩

theorem test_witness_HostResetLeavesIdle : Config.reference.Valid ∧ HostParams.reference.Valid .reference :=
  ⟨Config.reference_valid, HostParams.reference_valid⟩

end Sys2Proof.Tests
end

section
/-! What a command, an access and a step keep of the state: the frame of the configuration, RESULT, and the invariants
(10_state). -/

namespace Sys2Proof.Machine

/-! Width of the values written to RESULT (R12, R37). -/

theorem zext16_toNat_lt (v : Byte) : (zext16 v).toNat < 256 := by
  simpa [zext16] using Nat.lt_of_le_of_lt (Nat.mod_le v.toNat _) v.isLt

theorem zextBit_toNat_lt (b : Bool) : (zextBit b).toNat < 256 := by
  cases b <;> decide

/-! Bounds of the units' next values (R22, R24, R25). -/

/-- The next filter value is a mean of `y` and the scaled setpoint, both below `2 ^ W_F`. -/
theorem lpfNext_lt {c : Config} (a : Nat) {sp y : Nat} (hsp : sp < 256) (hy : y < 2 ^ c.wF) :
    lpfNext c a sp y < 2 ^ c.wF := by
  have hw : 2 ^ c.wF = 256 * 2 ^ c.extraBits := Nat.pow_add 2 8 c.extraBits
  have hset : sp * 2 ^ c.extraBits < 2 ^ c.wF := hw ▸ Nat.mul_lt_mul_of_pos_right hsp (Nat.two_pow_pos _)
  rw [lpfNext_eq, Nat.div_lt_iff_lt_mul (Nat.two_pow_pos a)]
  obtain ⟨m, hm⟩ : ∃ m, 2 ^ a = m + 1 := Nat.exists_eq_add_one.mpr (Nat.two_pow_pos a)
  have hmul : y * m ≤ 2 ^ c.wF * m := Nat.mul_le_mul_right m hy.le
  rw [hm, Nat.mul_add_one, Nat.mul_add_one]
  omega

theorem engineTick_phase_lt {c : Config} (hc : c.Valid) (v ph : Nat) : (engineTick c v ph).1 < c.lE := by
  unfold engineTick
  split
  · exact hc.lE_pos
  · exact Nat.mod_lt _ hc.lE_pos

theorem hornTrackTick_phase_lt {c : Config} (hc : c.Valid) (playing : Bool) (hinc : Nat) {ph : Nat} (hph : ph < c.lH) :
    (hornTrackTick c playing hinc ph).1 < c.lH := by
  unfold hornTrackTick
  split
  · exact Nat.mod_lt _ hc.lH_pos
  · exact hph

theorem noteDur_le_durRest {c : Config} (hc : c.Valid) (code : Byte) : noteDur c code ≤ c.durRest := by
  unfold noteDur
  split
  · exact le_rfl
  · exact hc.durNote_lt.le

/-! The invariants under the updates of the model's own fields, which they do not read. -/

theorem State.Inv.setPending {s : State} (h : s.Inv) (l : List Access) : (s.setPending l).Inv := { h with }

theorem State.Inv.setLastRead {s : State} (h : s.Inv) (d : HostRead) : (s.setLastRead d).Inv := { h with }

theorem State.Inv.bumpFree {s : State} (h : s.Inv) : s.bumpFree.Inv := { h with }

/-! The invariants under the sequencer (R171, R175). -/

/-- A cursor within the song, with a counter below the longest duration, meets the invariants once the increment is
refreshed from it. -/
theorem State.Inv.refreshIncrement_setCursor {s : State} (h : s.Inv) {k n : Byte} {p : Bool} (hk : k ≤ s.slen)
    (hp : p = true → k < s.slen) (hn : n.toNat < s.cfg.durRest) (hidle : p = false → n = 0#8) :
    (refreshIncrement (s.setCursor k n p)).Inv :=
  { h with nidx := hk, playing := hp, ncnt := hn, idle := hidle, hinc := rfl }

/-- The increment of a state that meets the invariants is fresh. -/
theorem refreshIncrement_of_inv {s : State} (h : s.Inv) : refreshIncrement s = s := by
  rw [refreshIncrement, ← h.hinc]
  rfl

theorem State.Inv.refreshIncrement_advanceNote {s : State} (h : s.Inv) (hplay : s.playing = true) :
    (refreshIncrement (advanceNote s)).Inv := by
  have hlt : s.nidx < s.slen := h.playing hplay
  have hdur := noteDur_le_durRest h.cfg (entry s.buf s.nidx.toNat)
  simp only [advanceNote]
  split
  case isTrue =>
    have hrest : 0 < s.cfg.durRest := Nat.zero_lt_of_lt h.cfg.durNote_lt
    exact h.refreshIncrement_setCursor (by bv_omega) of_decide_eq_true hrest fun _ => rfl
  case isFalse hcount =>
    exact h.refreshIncrement_setCursor h.nidx (fun _ => hlt) (by omega) nofun

theorem State.Inv.startSong {s : State} (h : s.Inv) {notes : List Byte} (hpos : 1 ≤ notes.length)
    (hfit : notes.length ≤ s.cfg.maxSongLen) : (startSong notes s).Inv := by
  have hmax := h.cfg.maxSongLen_le
  have hlen : (BitVec.ofNat 8 notes.length).toNat = notes.length := by
    rw [BitVec.toNat_ofNat]
    omega
  have hbuf : (notes ++ s.buf.drop notes.length).length = s.cfg.maxSongLen := by
    rw [List.length_append, List.length_drop, h.buf]
    omega
  have hstart : 0#8 < BitVec.ofNat 8 notes.length := by
    rw [BitVec.lt_def, hlen]
    exact hpos
  exact { h with
    buf := hbuf, nidx := Nat.zero_le _, slen := hlen.symm ▸ hfit, playing := fun _ => hstart,
    ncnt := Nat.zero_lt_of_lt h.cfg.durNote_lt, idle := fun _ => rfl, hinc := rfl }

theorem execHornPlay_keeps_inv {id : Byte} {s t : State} (hs : s.Inv) (h : execHornPlay id s = .next t) : t.Inv := by
  unfold execHornPlay at h
  split at h
  · exact Host.Outcome.next.inj h ▸ hs
  case h_2 notes hn =>
    obtain ⟨hsong, hpos⟩ := playableNotes_eq_some.mp hn
    exact Host.Outcome.next.inj h ▸ hs.startSong hpos (hs.cfg.song_length_le hsong)

theorem execHornTick_keeps_inv {s t : State} (hs : s.Inv) (h : execHornTick s = .next t) : t.Inv := by
  rw [← Host.Outcome.next.inj h]
  split
  case isTrue hplay => exact hs.refreshIncrement_advanceNote hplay
  case isFalse => exact (refreshIncrement_of_inv hs).symm ▸ hs

/-! The invariants under every command, access and step (R41). -/

theorem exec_keeps_inv {i : Instr} {s t : State} (hs : s.Inv) (h : exec i s = .next t) : t.Inv := by
  rcases exec_cases h with ⟨-, rfl⟩ | ⟨v, c, -, rfl⟩ | ⟨b, -, -, rfl⟩ | ⟨b, -, -, rfl⟩ | ⟨a, sp, -, rfl⟩ | ⟨-, rfl⟩ |
    ⟨v, m, -, rfl⟩ | ⟨id, -, -, -, -, -, -, rfl, -⟩ | ⟨-, -, -, -, rfl, -⟩
  · exact hs
  · exact { hs with pressed := ⟨v, rfl⟩ }
  · exact { hs with result := zextBit_toNat_lt _ }
  · exact { hs with result := zextBit_toNat_lt _ }
  · exact { hs with y := lpfNext_lt a.toNat sp.isLt hs.y }
  · exact { hs with result := zext16_toNat_lt _ }
  · exact { hs with
      phE := engineTick_phase_lt hs.cfg _ _, phH := hornTrackTick_phase_lt hs.cfg _ _ hs.phH, result := zext16_toNat_lt _ }
  · exact execHornPlay_keeps_inv hs h
  · exact execHornTick_keeps_inv hs h

theorem serve_keeps_inv {a : Access} {s t : State} (hs : s.Inv) (h : serve a s = .next t) : t.Inv := by
  rcases serve_next h with ⟨i, hi⟩ | ⟨d, rfl⟩ | ⟨d, rfl⟩ | rfl
  · exact exec_keeps_inv hs hi
  · exact (hs.setLastRead d).bumpFree
  · exact hs.setLastRead d
  · exact hs

/-- Settles O22: a step waits or serves one access, and every access keeps the invariants. -/
theorem stepKeepsInvariants : Obligations.StepKeepsInvariants := by
  intro s t hs h
  obtain ⟨-, -, ⟨-, rfl⟩ | ⟨a, rest, -, ha⟩⟩ := step_next h
  · exact hs
  · exact serve_keeps_inv (hs.setPending rest) ha

/-- At reset the pressed mask is that of band 0, which holds the sample 0 because B1 is positive (R9, R100). -/
theorem resetWith_inv {c : Config} (hc : c.Valid) : (State.resetWith c).Inv where
  cfg := hc
  y := Nat.two_pow_pos _
  phE := hc.lE_pos
  phH := hc.lH_pos
  buf := List.length_replicate
  nidx := Nat.zero_le _
  slen := Nat.zero_le _
  playing := nofun
  ncnt := Nat.zero_lt_of_lt hc.durNote_lt
  idle := fun _ => rfl
  hinc := rfl
  pressed := ⟨0#8, (if_pos hc.b1_pos).symm⟩
  result := (by decide : 0 < 256)

/-- Settles O21. -/
theorem resetSatisfiesInvariants : Obligations.ResetSatisfiesInvariants :=
  ⟨fun _ hc => resetWith_inv hc, resetWith_inv Config.reference_valid⟩

/-! What commands write (10_state sections 7 and 8). -/

/-- Settles O24: in each case of what a command can do, the fields it writes are others. -/
theorem commandsKeepConfiguration : Obligations.CommandsKeepConfiguration := by
  intro i s t h
  rcases exec_cases h with ⟨-, rfl⟩ | ⟨v, c, -, rfl⟩ | ⟨b, -, -, rfl⟩ | ⟨b, -, -, rfl⟩ | ⟨a, sp, -, rfl⟩ | ⟨-, rfl⟩ |
    ⟨v, m, -, rfl⟩ | ⟨id, b, l, k, n, p, inc, -, rfl⟩ | ⟨k, n, p, inc, -, rfl⟩ <;>
    exact ⟨rfl, rfl, rfl, rfl, rfl⟩

/-- The commands that write RESULT (R37). -/
def WritesResult (i : Instr) : Prop :=
  (∃ b, i = .ladPressed b) ∨ (∃ b, i = .ladClicked b) ∨ i = .lpfGet ∨ ∃ v, i = .oscSample v

/-- A command writes RESULT with at most 8 bits, or is no writer and leaves it. -/
theorem exec_result {i : Instr} {s t : State} (h : exec i s = .next t) :
    (WritesResult i ∧ t.result.toNat < 256) ∨ (¬ WritesResult i ∧ t.result = s.result) := by
  rcases exec_cases h with ⟨rfl, rfl⟩ | ⟨v, c, rfl, rfl⟩ | ⟨b, rfl, -, rfl⟩ | ⟨b, rfl, -, rfl⟩ | ⟨a, sp, rfl, rfl⟩ |
    ⟨rfl, rfl⟩ | ⟨v, m, rfl, rfl⟩ | ⟨id, b, l, k, n, p, inc, rfl, rfl⟩ | ⟨k, n, p, inc, rfl, rfl⟩
  · exact .inr ⟨by simp [WritesResult], rfl⟩
  · exact .inr ⟨by simp [WritesResult], rfl⟩
  · exact .inl ⟨.inl ⟨b, rfl⟩, zextBit_toNat_lt _⟩
  · exact .inl ⟨.inr (.inl ⟨b, rfl⟩), zextBit_toNat_lt _⟩
  · exact .inr ⟨by simp [WritesResult], rfl⟩
  · exact .inl ⟨.inr (.inr (.inl rfl)), zext16_toNat_lt _⟩
  · exact .inl ⟨.inr (.inr (.inr ⟨v, rfl⟩)), zext16_toNat_lt _⟩
  · exact .inr ⟨by simp [WritesResult], rfl⟩
  · exact .inr ⟨by simp [WritesResult], rfl⟩

/-- A faulting step takes its access off the queue and records the fault, and does nothing else (R240). -/
theorem afterStep_of_fault {s : State} {r : Fault} (h : step s = .fault r) :
    s.afterStep = (s.setPending s.pending.tail).setFault r := by
  rw [State.afterStep, h]
  rfl

/-- A two-byte write at the port RESULT has no effect (R53, R54). -/
theorem serve_busWrite_result {s : State} (hc : s.cfg.Valid) (lo hi : Byte) :
    serve (.busWrite (s.cfg.portBase + 2) [lo, hi]) s = .next s := by
  simp [serve, busWritePort, locate_result hc]

/-- Settles O25. -/
theorem resultRegisterRules : Obligations.ResultRegisterRules := by
  refine ⟨fun i s t h => ?writers, fun s r h => ?faults, fun s rest h hp => ?read, fun s w rest h hp => ?write,
    fun s lo hi rest h hp => ?busWrite, fun _ => rfl⟩
  case writers =>
    obtain ⟨hw, hlt⟩ | ⟨hw, hkeep⟩ := exec_result h
    · exact ⟨fun _ => hlt, fun hn => absurd hw hn⟩
    · exact ⟨fun hn => absurd hn hw, fun _ => hkeep⟩
  case faults => simp [afterStep_of_fault h]
  case read => exact step_of_ready h hp
  case write => exact step_of_ready h hp
  case busWrite => exact (step_of_ready h hp).trans (serve_busWrite_result (s := s.setPending rest) h.1 lo hi)

end Sys2Proof.Machine
end

section
/-! The host's port accesses and the order in which queued commands run (20_memory). -/

namespace Sys2Proof.Machine

/-! A command's word and its fields (R71). -/

@[simp] theorem opField_wordZ (op : BitVec 4) : opField (wordZ op) = op := BitVec.extractLsb'_append_eq_left

@[simp] theorem opField_wordS4I8 (op a : BitVec 4) (imm : Byte) : opField (wordS4I8 op a imm) = op :=
  (BitVec.extractLsb'_append_eq_of_le (by decide)).trans BitVec.extractLsb'_append_eq_left

@[simp] theorem opField_wordB2 (op : BitVec 4) (btn : BitVec 2) : opField (wordB2 op btn) = op :=
  (BitVec.extractLsb'_append_eq_of_le (by decide)).trans BitVec.extractLsb'_append_eq_left

@[simp] theorem imm8Field_wordS4I8 (op a : BitVec 4) (imm : Byte) : imm8Field (wordS4I8 op a imm) = imm :=
  BitVec.extractLsb'_append_eq_right

@[simp] theorem shiftField_wordS4I8 (op a : BitVec 4) (imm : Byte) : shiftField (wordS4I8 op a imm) = a :=
  (BitVec.extractLsb'_append_eq_of_le (by decide)).trans BitVec.extractLsb'_append_eq_right

/-- A word of format I8 is one of format S4I8 with the shift field zero. -/
@[simp] theorem opField_wordI8 (op : BitVec 4) (imm : Byte) : opField (wordI8 op imm) = op := opField_wordS4I8 op 0#4 imm

@[simp] theorem decodeZ_wordZ (op : BitVec 4) (i : Instr) : decodeZ (wordZ op) i = .ok i :=
  if_pos BitVec.extractLsb'_append_eq_right

@[simp] theorem decodeI8_wordI8 (op : BitVec 4) (imm : Byte) (mk : Byte → Instr) :
    decodeI8 (wordI8 op imm) mk = .ok (mk imm) := by
  have hzero : (wordI8 op imm).extractLsb' 8 4 = 0#4 := shiftField_wordS4I8 op 0#4 imm
  have himm : imm8Field (wordI8 op imm) = imm := BitVec.extractLsb'_append_eq_right
  rw [decodeI8, if_pos hzero, himm]

@[simp] theorem decodeB2_wordB2 (op : BitVec 4) (btn : BitVec 2) (mk : BitVec 2 → Instr) :
    decodeB2 (wordB2 op btn) mk = .ok (mk btn) := by
  have hzero : (wordB2 op btn).extractLsb' 2 10 = 0#10 :=
    (BitVec.extractLsb'_append_eq_of_le (by decide)).trans BitVec.extractLsb'_append_eq_right
  have hbtn : btnField (wordB2 op btn) = btn := BitVec.extractLsb'_append_eq_right
  rw [decodeB2, if_pos hzero, hbtn]

/-- The word of a command decodes to it: the opcode picks the format, whose fields the word holds. -/
theorem decode_encode (i : Instr) : decode (encode i) = .ok i := by
  cases i <;> simp [encode, decode]

/-! Commands and the host's queue: no command reads it or writes it. -/

theorem withButton_andThen (btn : BitVec 2) (w : Word) (k : Nat → Host.Outcome State Fault Refusal)
    (f : State → Host.Outcome State Fault Refusal) :
    andThen (withButton btn w k) f = withButton btn w fun b => andThen (k b) f := by
  unfold withButton
  split <;> rfl

theorem advanceNote_setPending (s : State) (l : List Access) :
    advanceNote (s.setPending l) = (advanceNote s).setPending l := by
  rw [advanceNote, advanceNote, apply_ite (State.setPending · l)]
  rfl

/-- A command does the same on every queue and leaves the queue as it stands. -/
theorem exec_setPending (i : Instr) (s : State) (l : List Access) :
    exec i (s.setPending l) = andThen (exec i s) fun t => .next (t.setPending l) := by
  cases i with
  | nop | ladSet | lpfStep | lpfGet | oscSample => rfl
  | ladPressed btn =>
    simp only [exec, execLadPressed, withButton_andThen]
    rfl
  | ladClicked btn =>
    simp only [exec, execLadClicked, withButton_andThen]
    rfl
  | hornPlay id =>
    simp only [exec, execHornPlay, State.setPending_cfg]
    split <;> rfl
  | hornTick =>
    simp only [exec, execHornTick, State.setPending_playing, advanceNote_setPending, andThen_next]
    split <;> rfl

/-! Steps on command words (R56, R57). -/

theorem step_writeCmd {s : State} (h : s.Ready) {w : Word} {rest : List Access} (hp : s.pending = .writeCmd w :: rest)
    {i : Instr} (hw : decode w = .ok i) : step s = exec i (s.setPending rest) :=
  (step_of_ready h hp).trans (command_of_decode hw _)

/-- Settles O10. -/
theorem stepRunsDecodedCommand : Obligations.StepRunsDecodedCommand := fun _ _ _ _ h hp hw => step_writeCmd h hp hw

theorem core_run_succ (k : Nat) (s : core.State) : core.run (k + 1) s = andThen (step s) (core.run k) := by
  rw [Host.Core.run]
  change _ = andThen (core.step s) _
  cases core.step s <;> rfl

/-- A command that completes leaves a ready block ready. -/
theorem exec_keeps_ready {i : Instr} {s t : State} (hs : s.Ready) (h : exec i s = .next t) : t.Ready := by
  obtain ⟨hcfg, hfault, -⟩ := commandsKeepConfiguration i s t h
  exact ⟨hcfg ▸ hs.1, hfault ▸ hs.2⟩

theorem exec_pending {i : Instr} {s t : State} (h : exec i s = .next t) : t.pending = s.pending := by
  obtain ⟨-, -, hpending, -⟩ := commandsKeepConfiguration i s t h
  exact hpending

/-- A step on a command's word runs the command as with an empty queue, and leaves the rest of the queue. -/
theorem step_encoded {s : State} (h : s.Ready) {i : Instr} {rest : List Access}
    (hp : s.pending = .writeCmd (encode i) :: rest) :
    step s = andThen (exec i (s.setPending [])) fun t => .next (t.setPending rest) :=
  (step_writeCmd h hp (decode_encode i)).trans (exec_setPending i (s.setPending []) rest)

/-- Settles O11, by induction on the commands: the first step runs the first command, which neither sees nor changes the
rest of the queue and leaves the block ready. -/
theorem queuedCommandsRunInIssueOrder : Obligations.QueuedCommandsRunInIssueOrder := by
  intro is
  induction is with
  | nil =>
    intro s _ hp
    exact congrArg (fun l => Host.Outcome.next (s.setPending l)) hp
  | cons i is ih =>
    intro s h hp
    refine (core_run_succ is.length s).trans ?_
    rw [step_encoded h hp]
    change _ = andThen (exec i (s.setPending [])) (runInstrs is)
    cases he : exec i (s.setPending []) with
    | fault r => rfl
    | refused r => rfl
    | next t =>
      have hready : t.Ready := exec_keeps_ready (s := s.setPending []) h he
      have hempty : t.setPending [] = t := congrArg t.setPending (exec_pending he).symm
      exact (ih (t.setPending (is.map _)) hready rfl).trans (congrArg (runInstrs is) hempty)

/-! What an access over the byte bus does at each port (R52 to R54). -/

/-- A two-byte write at the port CMD is the word write of the bytes in the configured order. -/
theorem serve_busWrite_cmd {s : State} (hc : s.cfg.Valid) (b₀ b₁ : Byte) :
    serve (.busWrite s.cfg.portBase [b₀, b₁]) s = serve (.writeCmd (laneWord s.cfg.portByteOrder [b₀, b₁])) s := by
  simp [serve, busWritePort, locate_cmd hc]

theorem serve_busRead_cmd {s : State} (hc : s.cfg.Valid) :
    serve (.busRead s.cfg.portBase 2) s =
      .next ((s.setLastRead (.bytes (laneBytes s.cfg.portByteOrder (Config.cmdReadValue s.freeCount)))).bumpFree) := by
  simp [serve, busReadPort, locate_cmd hc, readCmdPort]

theorem serve_busRead_result {s : State} (hc : s.cfg.Valid) :
    serve (.busRead (s.cfg.portBase + 2) 2) s = .next (s.setLastRead (.bytes (laneBytes s.cfg.portByteOrder s.result))) := by
  simp [serve, busReadPort, locate_result hc, readResultPort]

theorem serve_busRead_refused {s : State} {addr width : Nat} {r : Refusal} (h : locate s.cfg addr width = .error r) :
    serve (.busRead addr width) s = .refused r := by
  simp [serve, busReadPort, h]

theorem serve_busWrite_refused {s : State} {addr : Nat} {bytes : List Byte} {r : Refusal}
    (h : locate s.cfg addr bytes.length = .error r) : serve (.busWrite addr bytes) s = .refused r := by
  simp [serve, busWritePort, h]

theorem laneBytes_length (o : ByteOrder) (w : Word) : (laneBytes o w).length = 2 := by
  cases o <;> rfl

theorem laneBytes_little_append (lo hi : Byte) : laneBytes .little (hi ++ lo) = [lo, hi] :=
  congrArg₂ (fun a b => [a, b]) BitVec.extractLsb'_append_eq_right BitVec.extractLsb'_append_eq_left

theorem laneBytes_big_append (lo hi : Byte) : laneBytes .big (hi ++ lo) = [hi, lo] :=
  congrArg₂ (fun a b => [a, b]) BitVec.extractLsb'_append_eq_left BitVec.extractLsb'_append_eq_right

/-- Settles O14, access by access: a bus access that is not refused is two bytes wide and at one of the two ports. -/
theorem portAccessesDefinedOrRefused : Obligations.PortAccessesDefinedOrRefused := by
  intro s a rest h hp
  have hc : (s.setPending rest).cfg.Valid := h.1
  rw [step_of_ready h hp]
  refine ⟨?writeResult, ?readResult, ?readCmd, ?busReadCmd, ?busReadRefused, ?busWriteRefused, ?busWriteResult⟩
  case writeResult =>
    rintro w rfl
    rfl
  case readResult =>
    rintro rfl
    rfl
  case readCmd =>
    rintro rfl
    exact ⟨Config.cmdReadValue s.freeCount, rfl⟩
  case busReadCmd =>
    rintro rfl
    exact ⟨_, laneBytes_length .., serve_busRead_cmd hc⟩
  case busReadRefused =>
    rintro addr width rfl hbase hbad
    exact (locate_refused hbase hbad).imp fun _ => serve_busRead_refused (s := s.setPending rest)
  case busWriteRefused =>
    rintro addr bytes rfl hbase hbad
    exact (locate_refused hbase hbad).imp fun _ => serve_busWrite_refused (s := s.setPending rest)
  case busWriteResult =>
    rintro bytes rfl hlen
    obtain ⟨b₀, b₁, rfl⟩ := List.length_eq_two.mp hlen
    exact serve_busWrite_result hc b₀ b₁

/-- On a ready block, a two-byte write at CMD and the word write of its bytes in the configured order are one step. -/
theorem step_busWrite_cmd {s : State} (h : s.Ready) (b₀ b₁ : Byte) (rest : List Access) :
    step (s.setPending (.busWrite s.cfg.portBase [b₀, b₁] :: rest)) =
      step (s.setPending (.writeCmd (laneWord s.cfg.portByteOrder [b₀, b₁]) :: rest)) := by
  have hstep (a : Access) : step (s.setPending (a :: rest)) = serve a (s.setPending rest) :=
    step_of_ready (s := s.setPending (a :: rest)) h rfl
  rw [hstep, hstep]
  exact serve_busWrite_cmd (s := s.setPending rest) h.1 b₀ b₁

/-- On a ready block, a two-byte read at RESULT gives its bytes in the configured order. -/
theorem step_busRead_result {s : State} (h : s.Ready) (rest : List Access) :
    step (s.setPending (.busRead (s.cfg.portBase + 2) 2 :: rest)) =
      .next ((s.setPending rest).setLastRead (.bytes (laneBytes s.cfg.portByteOrder s.result))) :=
  (step_of_ready (s := s.setPending (_ :: rest)) h rfl).trans (serve_busRead_result (s := s.setPending rest) h.1)

/-- Settles O15: the bus step at each port, with the lanes read in either byte order. -/
theorem busAccessIsWordAccess : Obligations.BusAccessIsWordAccess := by
  rintro s rest w lo hi h rfl
  have hwrite := step_busWrite_cmd h
  have hread := step_busRead_result h rest
  refine ⟨fun ho => ?writeLittle, fun ho => ?writeBig, fun ho hr => ?readLittle, fun ho hr => ?readBig⟩
  case writeLittle =>
    rw [ho] at hwrite
    exact hwrite lo hi rest
  case writeBig =>
    rw [ho] at hwrite
    exact hwrite hi lo rest
  case readLittle =>
    rw [ho, hr, laneBytes_little_append] at hread
    exact hread
  case readBig =>
    rw [ho, hr, laneBytes_big_append] at hread
    exact hread

end Sys2Proof.Machine
end

section
/-! Decoding word by word: encoding as its inverse, the opcode map, the order of decoding, the faulting words and their
counts (30_encoding sections 1 to 4). -/

namespace Sys2Proof.Machine

/-! The word a decoded command came from (R71, R72). -/

theorem extractLsb'_append_low {n m : Nat} (w : BitVec (n + m)) : w.extractLsb' m n ++ w.extractLsb' 0 m = w :=
  (BitVec.extractLsb'_append_extractLsb'_eq_extractLsb' (Nat.zero_add m).symm).trans BitVec.extractLsb'_eq_self

/-- With its reserved-zero bits 0, a word of format Z is its opcode alone. -/
theorem wordZ_of_fields {w : Word} {op : BitVec 4} (hop : (opField w).toNat = op.toNat)
    (hzero : w.extractLsb' 0 12 = 0#12) : wordZ op = w := by
  rw [wordZ, ← BitVec.eq_of_toNat_eq hop, ← hzero]
  exact extractLsb'_append_low (n := 4) (m := 12) w

theorem wordS4I8_of_fields {w : Word} {op : BitVec 4} (hop : (opField w).toNat = op.toNat) :
    wordS4I8 op (shiftField w) (imm8Field w) = w := by
  rw [← BitVec.eq_of_toNat_eq hop, word_fields]

/-- With its reserved-zero bits 0, a word of format I8 is its opcode and its immediate. -/
theorem wordI8_of_fields {w : Word} {op : BitVec 4} (hop : (opField w).toNat = op.toNat)
    (hzero : w.extractLsb' 8 4 = 0#4) : wordI8 op (imm8Field w) = w := by
  rw [wordI8, ← hzero]
  exact wordS4I8_of_fields hop

/-- With its reserved-zero bits 0, a word of format B2 is its opcode and its button id. -/
theorem wordB2_of_fields {w : Word} {op : BitVec 4} (hop : (opField w).toNat = op.toNat)
    (hzero : w.extractLsb' 2 10 = 0#10) : wordB2 op (btnField w) = w := by
  have hhigh : opField w ++ w.extractLsb' 2 10 = w.extractLsb' 2 14 :=
    BitVec.extractLsb'_append_extractLsb'_eq_extractLsb' rfl
  rw [wordB2, ← BitVec.eq_of_toNat_eq hop, ← hzero, hhigh]
  exact extractLsb'_append_low (n := 14) (m := 2) w

/-- What each format's decoder accepts: the guard on its reserved-zero bits holds. -/
theorem guarded_eq_ok {P : Prop} [Decidable P] {i j : Instr} {e : Illegal} :
    (if P then .ok i else .error e : Except Illegal Instr) = .ok j ↔ P ∧ i = j := by
  split <;> simp [*]

/-- A word that decodes to a command is that command's word: in each format, the decoded fields and the reserved zeros
are all of the word's bits. -/
theorem encode_of_decode {w : Word} {i : Instr} (h : decode w = .ok i) : encode i = w := by
  unfold decode at h
  split at h
  case h_1 hop | h_6 hop | h_9 hop =>
    obtain ⟨hzero, rfl⟩ := guarded_eq_ok.mp h
    exact wordZ_of_fields hop hzero
  case h_2 hop | h_7 hop | h_8 hop =>
    obtain ⟨hzero, rfl⟩ := guarded_eq_ok.mp h
    exact wordI8_of_fields hop hzero
  case h_3 hop | h_4 hop =>
    obtain ⟨hzero, rfl⟩ := guarded_eq_ok.mp h
    exact wordB2_of_fields hop hzero
  case h_5 hop =>
    cases h
    exact wordS4I8_of_fields hop
  case h_10 => cases h

/-- Decoding and encoding are inverse (R70 to R72). -/
theorem decode_eq_ok_iff {w : Word} {i : Instr} : decode w = .ok i ↔ encode i = w :=
  ⟨encode_of_decode, fun h => h ▸ decode_encode i⟩

/-! The opcode map (R74). -/

/-- A mask over the high bits of a word compares its high field. -/
theorem and_highMask_iff {n m : Nat} (w : BitVec (n + m)) (hi : BitVec n) :
    w &&& (BitVec.allOnes n ++ 0#m) = hi ++ 0#m ↔ w.extractLsb' m n = hi := by
  conv_lhs => rw [← extractLsb'_append_low w, BitVec.and_append, BitVec.and_allOnes, BitVec.and_zero]
  exact BitVec.append_left_inj _

/-- A word has a given high field exactly when it is that field over its own low bits. -/
theorem append_low_eq_iff {n m : Nat} (w : BitVec (n + m)) (hi : BitVec n) :
    hi ++ w.extractLsb' 0 m = w ↔ w.extractLsb' m n = hi :=
  ⟨fun h => h ▸ BitVec.extractLsb'_append_eq_left, fun h => h ▸ extractLsb'_append_low w⟩

/-- A word matches a row exactly when it is the row's high bits over its own low bits. -/
theorem and_highMask_iff_append {n m : Nat} (w : BitVec (n + m)) (hi : BitVec n) :
    w &&& (BitVec.allOnes n ++ 0#m) = hi ++ 0#m ↔ hi ++ w.extractLsb' 0 m = w :=
  (and_highMask_iff w hi).trans (append_low_eq_iff w hi).symm

theorem matches_wordZ (w : Word) (op : BitVec 4) : w &&& 0xFFFF#16 = wordZ op ↔ wordZ op = w := by
  rw [show (0xFFFF#16) = BitVec.allOnes 16 from rfl, BitVec.and_allOnes]
  exact eq_comm

theorem matches_wordI8 (w : Word) (op : BitVec 4) : w &&& 0xFF00#16 = wordI8 op 0#8 ↔ wordI8 op (imm8Field w) = w :=
  and_highMask_iff_append (n := 8) (m := 8) w (op ++ 0#4)

theorem matches_wordB2 (w : Word) (op : BitVec 4) : w &&& 0xFFFC#16 = wordB2 op 0#2 ↔ wordB2 op (btnField w) = w :=
  and_highMask_iff_append (n := 14) (m := 2) w (op ++ 0#10)

theorem matches_wordS4I8 (w : Word) : w &&& 0xF000#16 = 0x4000#16 ↔ wordS4I8 0x4#4 (shiftField w) (imm8Field w) = w :=
  (and_highMask_iff (n := 4) (m := 12) w 0x4#4).trans
    ⟨fun h => wordS4I8_of_fields (congrArg BitVec.toNat h), fun h => h ▸ opField_wordS4I8 ..⟩

/-- Every command's word stands in a row of the opcode map. -/
theorem encode_in_opcodeTable (i : Instr) : ∃ r ∈ opcodeTable, encode i &&& r.mask = r.bits := by
  have hrow : Laws.TableRow.Statement i := by
    cases i with
    | nop => exact Laws.TableRow.nop
    | ladSet v => exact Laws.TableRow.ladSet v
    | ladPressed b => exact Laws.TableRow.ladPressed b
    | ladClicked b => exact Laws.TableRow.ladClicked b
    | lpfStep a sp => exact Laws.TableRow.lpfStep a sp
    | lpfGet => exact Laws.TableRow.lpfGet
    | oscSample v => exact Laws.TableRow.oscSample v
    | hornPlay id => exact Laws.TableRow.hornPlay id
    | hornTick => exact Laws.TableRow.hornTick
  obtain ⟨r, hr, -, hcovers⟩ := hrow
  exact ⟨r, hr, beq_iff_eq.mp hcovers⟩

/-- A row's mask holds the whole opcode, so a word that matches the row has its opcode. -/
theorem opField_of_matches {r : OpcodeRow} (hr : r ∈ opcodeTable) {w : Word} (h : w &&& r.mask = r.bits) :
    opField w = opField r.bits := by
  have hmasks : ∀ r ∈ opcodeTable, r.mask.extractLsb' 12 4 = BitVec.allOnes 4 := by decide
  rw [← h, opField, opField, BitVec.extractLsb'_and, hmasks r hr, BitVec.and_allOnes]

/-- No two rows of the opcode map have the same opcode. -/
theorem opcodeTable_opField_inj : ∀ r ∈ opcodeTable, ∀ r' ∈ opcodeTable, opField r.bits = opField r'.bits → r = r' := by
  decide

/-- Settles O3: a row's bits and mask say that the word is the encoding of the row's command with the word's own fields. -/
theorem opcodeMapDecodes : Obligations.OpcodeMapDecodes := by
  intro w
  simp only [decode_eq_ok_iff]
  refine ⟨matches_wordZ w 0x0#4, matches_wordI8 w 0x1#4, matches_wordB2 w 0x2#4, matches_wordB2 w 0x3#4,
    matches_wordS4I8 w, matches_wordZ w 0x5#4, matches_wordI8 w 0x6#4, matches_wordI8 w 0x7#4, matches_wordZ w 0x8#4,
    fun r hr r' hr' h h' => ?exclusive, fun hnone => ?illegal⟩
  case exclusive =>
    exact opcodeTable_opField_inj r hr r' hr' ((opField_of_matches hr h).symm.trans (opField_of_matches hr' h'))
  case illegal =>
    cases hw : decode w with
    | error e => exact ⟨e, rfl⟩
    | ok i =>
      obtain ⟨r, hr, hmatch⟩ := encode_in_opcodeTable i
      exact absurd (encode_of_decode hw ▸ hmatch) (hnone r hr)

/-! The order in which decoding decides (R72). -/

/-- What a format with reserved-zero bits decodes to, by the guard on those bits. -/
theorem guarded_outcome {P : Prop} [Decidable P] (i : Instr) (e : Illegal) :
    (P → ∃ j, (if P then .ok i else .error e : Except Illegal Instr) = .ok j) ∧
      (¬ P → (if P then .ok i else .error e : Except Illegal Instr) = .error e) :=
  ⟨fun h => ⟨i, if_pos h⟩, fun h => if_neg h⟩

theorem decode_formatZ {w : Word} (hop : (opField w).toNat ∈ [0, 5, 8]) :
    (w.extractLsb' 0 12 = 0#12 → ∃ i, decode w = .ok i) ∧
      (w.extractLsb' 0 12 ≠ 0#12 → decode w = .error .reservedBits) := by
  simp only [List.mem_cons, List.not_mem_nil, or_false] at hop
  unfold decode
  rcases hop with h | h | h <;> rw [h] <;> exact guarded_outcome _ _

theorem decode_formatI8 {w : Word} (hop : (opField w).toNat ∈ [1, 6, 7]) :
    (w.extractLsb' 8 4 = 0#4 → ∃ i, decode w = .ok i) ∧
      (w.extractLsb' 8 4 ≠ 0#4 → decode w = .error .reservedBits) := by
  simp only [List.mem_cons, List.not_mem_nil, or_false] at hop
  unfold decode
  rcases hop with h | h | h <;> rw [h] <;> exact guarded_outcome _ _

theorem decode_formatB2 {w : Word} (hop : (opField w).toNat ∈ [2, 3]) :
    (w.extractLsb' 2 10 = 0#10 → ∃ i, decode w = .ok i) ∧
      (w.extractLsb' 2 10 ≠ 0#10 → decode w = .error .reservedBits) := by
  simp only [List.mem_cons, List.not_mem_nil, or_false] at hop
  unfold decode
  rcases hop with h | h <;> rw [h] <;> exact guarded_outcome _ _

theorem decode_formatS4I8 {w : Word} (hop : (opField w).toNat = 4) : ∃ i, decode w = .ok i := by
  unfold decode
  rw [hop]
  exact ⟨_, rfl⟩

theorem decode_reservedOpcode {w : Word} (hop : 9 ≤ (opField w).toNat) : decode w = .error .reservedOpcode := by
  unfold decode
  split
  case h_10 => rfl
  all_goals omega

/-- An ILLEGAL word at the command port of a ready block faults (R72, R241). -/
theorem step_illegal {w : Word} {e : Illegal} {s : State} {rest : List Access} (hw : decode w = .error e) (h : s.Ready)
    (hp : s.pending = .writeCmd w :: rest) : step s = .fault (.illegalCmd w) :=
  (step_of_ready h hp).trans (command_illegal hw _)

/-- Settles O4, format by format. -/
theorem decodeDecidesInOrder : Obligations.DecodeDecidesInOrder := fun _ =>
  ⟨decode_reservedOpcode, fun hop => (decode_formatZ hop).2, fun hop => (decode_formatI8 hop).2,
    fun hop => (decode_formatB2 hop).2, fun _ => encode_of_decode, decode_formatS4I8, fun hop => (decode_formatZ hop).1,
    fun hop => (decode_formatI8 hop).1, fun hop => (decode_formatB2 hop).1, fun _ _ _ => step_illegal⟩

/-! The reserved ranges (R75, R76). -/

theorem opField_toNat (w : Word) : (opField w).toNat = w.toNat / 4096 := by
  rw [opField, BitVec.extractLsb'_toNat, Nat.shiftRight_eq_div_pow]
  omega

theorem extractLsb'_eq_zero_iff {n k len : Nat} (w : BitVec n) :
    w.extractLsb' k len = 0#len ↔ w.toNat / 2 ^ k % 2 ^ len = 0 := by
  rw [← BitVec.toNat_inj, BitVec.extractLsb'_toNat, Nat.shiftRight_eq_div_pow, BitVec.toNat_ofNat, Nat.zero_mod]

/-- The words in one of the given ranges, both bounds included. -/
def inRanges (l : List (Word × Word)) (w : Word) : Bool := l.any fun r => decide (r.1 ≤ w ∧ w ≤ r.2)

theorem inRanges_cons (r : Word × Word) (l : List (Word × Word)) (w : Word) :
    inRanges (r :: l) w = true ↔ (r.1 ≤ w ∧ w ≤ r.2) ∨ inRanges l w = true := by
  simp [inRanges]

/-- Ranges that do not meet count apart. -/
theorem countWords_inRanges {l : List (Word × Word)} (h : l.Pairwise fun r r' => r.2 < r'.1 ∨ r'.2 < r.1) :
    countWords (inRanges l) = (l.map fun r => r.2.toNat + 1 - r.1.toNat).sum := by
  induction h with
  | nil => simp [countWords, inRanges]
  | @cons r l hr _ ih =>
    have hapart : ∀ w, ¬ (decide (r.1 ≤ w ∧ w ≤ r.2) = true ∧ inRanges l w = true) := by
      intro w ⟨hw, hl⟩
      obtain ⟨r', hmem, hw'⟩ := List.any_eq_true.mp hl
      have := hr r' hmem
      simp only [decide_eq_true_eq] at hw hw'
      bv_omega
    rw [List.map_cons, List.sum_cons, ← ih, ← countWords_between, ← countWords_or hapart]
    rfl

/-- The ranges of R76, in its order. -/
def reservedBitRanges : List (Word × Word) :=
  [(0x0001#16, 0x0FFF#16), (0x5001#16, 0x5FFF#16), (0x8001#16, 0x8FFF#16), (0x1100#16, 0x1FFF#16),
    (0x6100#16, 0x6FFF#16), (0x7100#16, 0x7FFF#16), (0x2004#16, 0x2FFF#16), (0x3004#16, 0x3FFF#16)]

/-- Some reserved-zero bit of the format of a defined opcode is 1 (R71, R76). -/
def HasReservedBits (w : Word) : Prop :=
  (opField w).toNat ∈ [0, 5, 8] ∧ w.extractLsb' 0 12 ≠ 0#12 ∨
  (opField w).toNat ∈ [1, 6, 7] ∧ w.extractLsb' 8 4 ≠ 0#4 ∨
  (opField w).toNat ∈ [2, 3] ∧ w.extractLsb' 2 10 ≠ 0#10

theorem decode_of_hasReservedBits {w : Word} (h : HasReservedBits w) : decode w = .error .reservedBits := by
  obtain ⟨hop, hbits⟩ | ⟨hop, hbits⟩ | ⟨hop, hbits⟩ := h
  · exact (decode_formatZ hop).2 hbits
  · exact (decode_formatI8 hop).2 hbits
  · exact (decode_formatB2 hop).2 hbits

theorem format_cases (op : BitVec 4) :
    op.toNat ∈ [0, 5, 8] ∨ op.toNat ∈ [1, 6, 7] ∨ op.toNat ∈ [2, 3] ∨ op.toNat = 4 ∨ 9 ≤ op.toNat := by
  revert op
  decide

/-- A word is ILLEGAL for a reserved opcode or for a reserved-zero bit, and for nothing else. -/
theorem decode_error_cases {w : Word} {e : Illegal} (h : decode w = .error e) :
    (e = .reservedOpcode ∧ 9 ≤ (opField w).toNat) ∨ (e = .reservedBits ∧ HasReservedBits w) := by
  have hok : ¬ ∃ i, decode w = .ok i := by simp [h]
  have hbits (hres : HasReservedBits w) : e = .reservedBits ∧ HasReservedBits w :=
    ⟨Except.error.inj (h.symm.trans (decode_of_hasReservedBits hres)), hres⟩
  obtain hop | hop | hop | hop | hop := format_cases (opField w)
  · exact .inr (hbits (.inl ⟨hop, fun hzero => hok ((decode_formatZ hop).1 hzero)⟩))
  · exact .inr (hbits (.inr (.inl ⟨hop, fun hzero => hok ((decode_formatI8 hop).1 hzero)⟩)))
  · exact .inr (hbits (.inr (.inr ⟨hop, fun hzero => hok ((decode_formatB2 hop).1 hzero)⟩)))
  · exact absurd (decode_formatS4I8 hop) hok
  · exact .inl ⟨Except.error.inj (h.symm.trans (decode_reservedOpcode hop)), hop⟩

theorem hasReservedBits_iff (w : Word) : HasReservedBits w ↔ inRanges reservedBitRanges w = true := by
  simp only [HasReservedBits, inRanges, reservedBitRanges, opField_toNat, ne_eq, extractLsb'_eq_zero_iff, List.mem_cons,
    List.not_mem_nil, or_false, List.any_cons, List.any_nil, Bool.or_false, Bool.or_eq_true, decide_eq_true_eq,
    BitVec.le_def, BitVec.toNat_ofNat]
  omega

theorem opField_ge_nine_iff (w : Word) : 9 ≤ (opField w).toNat ↔ 0x9000#16 ≤ w := by
  rw [opField_toNat, BitVec.le_def, BitVec.toNat_ofNat]
  omega

theorem decode_eq_reservedBits_iff {w : Word} :
    decode w = .error .reservedBits ↔ inRanges reservedBitRanges w = true := by
  rw [← hasReservedBits_iff]
  exact ⟨fun h => by simpa using decode_error_cases h, decode_of_hasReservedBits⟩

theorem decode_eq_reservedOpcode_iff {w : Word} : decode w = .error .reservedOpcode ↔ 0x9000#16 ≤ w := by
  rw [← opField_ge_nine_iff]
  exact ⟨fun h => by simpa using decode_error_cases h, decode_reservedOpcode⟩

/-- The ranges of all ILLEGAL words: the reserved opcodes and the reserved-zero bits. -/
def illegalRanges : List (Word × Word) := (0x9000#16, 0xFFFF#16) :: reservedBitRanges

theorem le_allOnes (w : Word) : w ≤ 0xFFFF#16 := by
  have := w.isLt
  bv_omega

theorem decode_illegal_iff {w : Word} :
    decode w = .error .reservedBits ∨ decode w = .error .reservedOpcode ↔ inRanges illegalRanges w = true := by
  rw [illegalRanges, inRanges_cons, decode_eq_reservedBits_iff, decode_eq_reservedOpcode_iff, or_comm,
    and_iff_left (le_allOnes w)]

/-- Settles O5: the opcodes 9 to 15 are the words from 0x9000 up, one range. -/
theorem reservedOpcodesFault : Obligations.ReservedOpcodesFault := by
  refine ⟨fun w s rest hw => step_illegal (decode_eq_reservedOpcode_iff.mpr hw), ?count⟩
  case count =>
    have hcongr (w : Word) : decide (0x9000#16 ≤ w) = decide (0x9000#16 ≤ w ∧ w ≤ 0xFFFF#16) := by simp [le_allOnes]
    exact (countWords_congr hcongr).trans (countWords_between _ _)

/-! Which commands complete (R77, R78). -/

theorem namesButton_eq_false {btn : BitVec 2} : namesButton btn = false ↔ btn = 3#2 := bne_eq_false_iff_eq

/-- A button query completes for an id that names a button, and faults with its word for the id 3 (R104). -/
theorem query_outcome (btn : BitVec 2) (w : Word) (k : Nat → State) :
    (namesButton btn = true → ∃ t, withButton btn w (fun b => .next (k b)) = .next t) ∧
      (namesButton btn = false → withButton btn w (fun b => .next (k b)) = .fault (.badButton w)) :=
  ⟨fun h => ⟨_, withButton_named (bne_iff_ne.mp h) w _⟩, fun h => namesButton_eq_false.mp h ▸ withButton_unnamed w _⟩

/-- Settles O26: only the two button queries can fault, and only on their operand. -/
theorem wellFormedCommandsComplete : Obligations.WellFormedCommandsComplete := by
  intro i s
  cases i with
  | nop | ladSet | lpfStep | lpfGet | oscSample | hornTick => exact ⟨fun _ => ⟨_, rfl⟩, nofun⟩
  | ladPressed btn => exact query_outcome btn _ fun b => s.setResult (zextBit (maskBit s.pressed b))
  | ladClicked btn =>
    exact query_outcome btn _ fun b => (s.setResult (zextBit (maskBit s.clicks b))).setClicks (clearBit s.clicks b)
  | hornPlay id =>
    obtain ⟨_, _, _, _, _, _, h⟩ := hornPlay_frame s id
    exact ⟨fun _ => ⟨_, h⟩, nofun⟩

theorem wellFormed_eq_false_iff {i : Instr} : i.wellFormed = false ↔ i = .ladPressed 3#2 ∨ i = .ladClicked 3#2 := by
  cases i <;> simp [Instr.wellFormed, namesButton_eq_false]

/-- The words of the ill-formed commands (R77). -/
theorem wellFormed_eq_false_iff_word {w : Word} {i : Instr} (hw : decode w = .ok i) :
    i.wellFormed = false ↔ w = 0x2003#16 ∨ w = 0x3003#16 := by
  have hword {j : Instr} : i = j ↔ w = encode j := by
    rw [eq_comm (b := encode j), ← decode_eq_ok_iff, hw, Except.ok.injEq]
  rw [wellFormed_eq_false_iff, hword, hword]
  exact Iff.rfl

/-- A command with the button id 3 at the command port of a ready block faults (R77). -/
theorem step_badButton {w : Word} {s : State} {rest : List Access} (hw : w = 0x2003#16 ∨ w = 0x3003#16)
    (h : s.Ready) (hp : s.pending = .writeCmd w :: rest) : step s = .fault (.badButton w) := by
  obtain ⟨i, hi⟩ : ∃ i, decode w = .ok i := by
    obtain rfl | rfl := hw
    · exact ⟨_, decode_encode (.ladPressed 3#2)⟩
    · exact ⟨_, decode_encode (.ladClicked 3#2)⟩
  have hill := (wellFormed_eq_false_iff_word hi).mpr hw
  rw [step_writeCmd h hp hi, (wellFormedCommandsComplete i _).2 hill, encode_of_decode hi]

/-- The words of the button id 3, as ranges. -/
def badButtonRanges : List (Word × Word) := [(0x2003#16, 0x2003#16), (0x3003#16, 0x3003#16)]

theorem badButton_iff {w : Word} : w = 0x2003#16 ∨ w = 0x3003#16 ↔ inRanges badButtonRanges w = true := by
  have hpoint (c : Word) : c ≤ w ∧ w ≤ c ↔ w = c := by bv_omega
  simp [inRanges, badButtonRanges, hpoint]

/-- The ranges of all words that fault. -/
def faultingRanges : List (Word × Word) := badButtonRanges ++ illegalRanges

theorem countWords_not (p : Word → Bool) : countWords (fun w => !p w) = 65536 - countWords p := by
  have h := List.length_eq_countP_add_countP (fun n => p (BitVec.ofNat 16 n)) (l := List.range 65536)
  simp only [List.length_range, Bool.not_eq_true, Bool.decide_eq_false] at h
  exact Nat.eq_sub_of_add_eq' h.symm

/-- A word decodes to a well-formed command exactly when it is in no faulting range. -/
theorem decode_wellFormed_eq (w : Word) :
    (match decode w with | .ok i => i.wellFormed | .error _ => false) = !inRanges faultingRanges w := by
  have happend : inRanges faultingRanges w = (inRanges badButtonRanges w || inRanges illegalRanges w) := List.any_append
  rw [happend]
  cases hw : decode w with
  | ok i =>
    have hlegal : inRanges illegalRanges w = false := by simp [← Bool.not_eq_true, ← decode_illegal_iff, hw]
    have hill : (!i.wellFormed) = inRanges badButtonRanges w := by
      rw [Bool.eq_iff_iff, Bool.not_eq_true', wellFormed_eq_false_iff_word hw, badButton_iff]
    rw [hlegal, Bool.or_false, ← hill]
    exact (Bool.not_not _).symm
  | error e =>
    have hillegal : inRanges illegalRanges w = true := by
      rw [← decode_illegal_iff, hw]
      cases e <;> simp
    rw [hillegal, Bool.or_true]
    rfl

/-- Settles O6: every count is one of disjoint ranges, or of their complement. -/
theorem reservedBitWordsCounted : Obligations.ReservedBitWordsCounted := by
  refine ⟨fun w => ?ranges, fun w s rest => step_illegal, fun w s rest => step_badButton,
    fun w i s rest hw hwf h hp => ?executes, ?countReserved, ?countIllegal, ?countBadButton, ?countExecuting⟩
  case ranges => simp [decode_eq_reservedBits_iff, inRanges, reservedBitRanges]
  case executes =>
    rw [step_writeCmd h hp hw]
    exact (wellFormedCommandsComplete i _).1 hwf
  case countReserved =>
    simp only [decode_eq_reservedBits_iff, Bool.decide_eq_true]
    exact countWords_inRanges (by decide)
  case countIllegal =>
    simp only [decode_illegal_iff, Bool.decide_eq_true]
    exact countWords_inRanges (by decide)
  case countBadButton =>
    simp only [badButton_iff, Bool.decide_eq_true]
    exact countWords_inRanges (by decide)
  case countExecuting =>
    refine (countWords_congr decode_wellFormed_eq).trans ?_
    rw [countWords_not, countWords_inRanges (by decide)]
    rfl

end Sys2Proof.Machine
end

section
/-! The assembler: what it accepts, and the words and commands it gives (30_encoding sections 5 and 6). -/

namespace Sys2Proof.Machine

theorem assembleLine_of_inRange {p : HostParams} {line : List Char} {c : AsmCommand} (hline : parseLine line = .ok (some c))
    (hc : asmInRange c = true) : assembleLine p line = .ok (some (asmWord p c)) := by
  simp only [assembleLine, hline, if_pos hc]

theorem assembleLine_of_outOfRange {p : HostParams} {line : List Char} {c : AsmCommand}
    (hline : parseLine line = .ok (some c)) (hc : asmInRange c = false) : assembleLine p line = .error .outOfRange := by
  simp [assembleLine, hline, hc]

/-- What an accepted line assembles to and decodes to, and that the line is refused outside its range, when its word is
that of the command `i`. -/
theorem assembleLine_outcome {p : HostParams} {line : List Char} {c : AsmCommand} {i : Instr}
    (hline : parseLine line = .ok (some c)) (hword : asmWord p c = encode i) :
    (asmInRange c = true → ∃ w, assembleLine p line = .ok (some w) ∧ decode w = .ok i) ∧
      (asmInRange c = false → ∃ e, assembleLine p line = .error e) :=
  ⟨fun hc => ⟨_, assembleLine_of_inRange hline hc, decode_eq_ok_iff.mpr hword.symm⟩,
    fun hc => ⟨_, assembleLine_of_outOfRange hline hc⟩⟩

theorem namesButton_ofNat {b : Nat} (h : b ≤ 2) : namesButton (BitVec.ofNat 2 b) = true := by
  interval_cases b <;> decide

/-- An accepted line that is no raw word is the word of a well-formed command. -/
theorem asmWord_wellFormed (p : HostParams) {c : AsmCommand} (hc : asmInRange c = true) (hraw : ∀ w, c ≠ .word w) :
    ∃ i, asmWord p c = encode i ∧ i.wellFormed = true := by
  unfold asmWord
  cases c with
  | word w => exact absurd rfl (hraw w)
  | ladPressed b | ladClicked b => exact ⟨_, rfl, namesButton_ofNat (of_decide_eq_true hc)⟩
  | _ => exact ⟨_, rfl, rfl⟩

/-- Settles O8: a line is accepted exactly within its operands' ranges, and its word is the encoding of its command with
those operands. -/
theorem assembledCommandsAreWellFormed : Obligations.AssembledCommandsAreWellFormed := by
  intro p
  refine ⟨fun c => ⟨fun hc hraw => ?wellFormed, fun line hline => ?assembled⟩, fun form command hform line n hline => ?byte,
    fun form command hform line b hline => ?button, fun line a n hline => ?shift⟩
  case wellFormed =>
    obtain ⟨i, hword, hwf⟩ := asmWord_wellFormed p hc hraw
    exact ⟨i, decode_eq_ok_iff.mpr hword.symm, hwf⟩
  case assembled => exact ⟨assembleLine_of_inRange hline, assembleLine_of_outOfRange hline⟩
  case byte =>
    obtain ⟨hrange, hword⟩ : asmInRange (form n) = decide (n ≤ 255) ∧
        asmWord p (form n) = encode (command (BitVec.ofNat 8 n)) := by
      rcases hform with ⟨rfl, rfl⟩ | ⟨rfl, rfl⟩ | ⟨rfl, rfl⟩ | ⟨rfl, rfl⟩ | ⟨rfl, rfl⟩ | ⟨rfl, rfl⟩ <;>
        exact ⟨rfl, rfl⟩
    simpa [hrange] using assembleLine_outcome hline hword
  case button =>
    obtain ⟨hrange, hword⟩ : asmInRange (form b) = decide (b ≤ 2) ∧
        asmWord p (form b) = encode (command (BitVec.ofNat 2 b)) := by
      rcases hform with ⟨rfl, rfl⟩ | ⟨rfl, rfl⟩ <;> exact ⟨rfl, rfl⟩
    simpa [hrange] using assembleLine_outcome hline hword
  case shift =>
    have hword : asmWord p (.lpfStep a n) = encode (.lpfStep (BitVec.ofNat 4 a) (BitVec.ofNat 8 n)) := rfl
    obtain ⟨haccept, hrefuse⟩ := assembleLine_outcome hline hword
    refine ⟨fun ha hn => haccept (by simp [asmInRange, ha, hn]), fun h => hrefuse ?_⟩
    simpa [asmInRange, imp_iff_not_or] using h

/-- Settles O7: each line parses to a command in range, whose word decodes to that command. -/
theorem assemblerExampleWords : Obligations.AssemblerExampleWords := fun _ =>
  ⟨assembleLine_of_inRange (c := .ladSet 60) (by decide +kernel) rfl,
    assembleLine_of_inRange (c := .ladClicked 0) (by decide +kernel) rfl,
    assembleLine_of_inRange (c := .ladPressed 1) (by decide +kernel) rfl,
    assembleLine_of_inRange (c := .lpfStep 3 64) (by decide +kernel) rfl,
    assembleLine_of_inRange (c := .lpfGet) (by decide +kernel) rfl,
    assembleLine_of_inRange (c := .oscSample 0) (by decide +kernel) rfl,
    assembleLine_of_inRange (c := .oscSample 200) (by decide +kernel) rfl,
    assembleLine_of_inRange (c := .hornPlay 1) (by decide +kernel) rfl,
    assembleLine_of_inRange (c := .hornTick) (by decide +kernel) rfl,
    assembleLine_of_inRange (c := .nop) (by decide +kernel) rfl,
    decode_encode (.ladSet 60#8), decode_encode (.ladClicked 0#2), decode_encode (.ladPressed 1#2),
    decode_encode (.lpfStep 3#4 64#8), decode_encode (.oscSample 200#8), decode_encode (.hornPlay 1#8),
    decode_encode (.oscSample 0#8), decode_encode .lpfGet, decode_encode .hornTick, decode_encode .nop⟩

/-- Settles O9: a pseudo-instruction's word is the encoding of its expansion. -/
theorem pseudoInstructionsExpand : Obligations.PseudoInstructionsExpand := by
  intro p sp
  have hstep (a : BitVec 4) : decode (encode (.lpfStep a (BitVec.ofNat 8 sp.toNat))) = .ok (.lpfStep a sp) := by
    rw [decode_encode, BitVec.ofNat_toNat, BitVec.setWidth_eq]
  exact ⟨hstep _, hstep _, hstep _, decode_encode _, decode_encode _, decode_encode _⟩

end Sys2Proof.Machine
end

section
/-! The ladder unit: LAD.SET, the two button queries, and what a run keeps of a pending click (40_ladder). -/

namespace Sys2Proof.Machine

/-! Words of the ladder commands: the opcode over the operand (R71, R74). -/

theorem encode_ladSet (v : Byte) : encode (.ladSet v) = 0x1000#16 ||| v.setWidth 16 := rfl

theorem encode_ladPressed (b : BitVec 2) : encode (.ladPressed b) = 0x2000#16 ||| b.setWidth 16 := rfl

theorem encode_ladClicked (b : BitVec 2) : encode (.ladClicked b) = 0x3000#16 ||| b.setWidth 16 := rfl

/-! Masks and their bits. -/

theorem toNat_lt_three {b : BitVec 2} (hb : b ≠ 3#2) : b.toNat < 3 := by bv_omega

theorem zextBit_maskBit (m : ButtonMask) (k : Nat) : zextBit (maskBit m k) = BitVec.ofNat 16 (m.toNat / 2 ^ k % 2) := by
  rw [maskBit, ← BitVec.testBit_toNat, ← Nat.toNat_testBit]
  cases m.toNat.testBit k <;> rfl

theorem maskBit_clearBit_same (m : ButtonMask) {b : Nat} (hb : b < 3) : maskBit (clearBit m b) b = false := by
  simp [maskBit_clearBit, hb]

theorem maskBit_clearBit_of_ne (m : ButtonMask) {b k : Nat} (hk : k < 3) (hne : k ≠ b) :
    maskBit (clearBit m b) k = maskBit m k := by
  simp [maskBit_clearBit, hk, hne]

/-- The restriction to the defined button bits restricts nothing: a mask has no others (R101). -/
theorem latchClicks_eq (c p n : ButtonMask) : latchClicks c p n = c ||| (n &&& ~~~p) := by
  have hall : 0b111#3 = BitVec.allOnes 3 := rfl
  rw [latchClicks, risingEdges, hall, BitVec.and_allOnes, BitVec.and_comm]

theorem and_or_absorb {w : Nat} (x y : BitVec w) : x &&& (x ||| y) = x := by
  ext i
  cases hx : x[i] <;> simp [hx]

/-- A mask that gains the bits of `n` outside `p` changes only where `n` has a bit. -/
theorem getLsbD_of_or_ne {c p n : ButtonMask} {k : Nat} (h : (c ||| (n &&& ~~~p)).getLsbD k ≠ c.getLsbD k) :
    n.getLsbD k = true := by
  by_contra hn
  simp [hn] at h

/-! The bands (R100). -/

theorem bandMask_band0 {c : Config} {v : Nat} (hhi : v < c.b1) : bandMask c v = 0b000#3 := if_pos hhi

theorem bandMask_band1 {c : Config} {v : Nat} (hlo : c.b1 ≤ v) (hhi : v < c.b2) : bandMask c v = 0b001#3 := by
  rw [bandMask, if_neg hlo.not_gt, if_pos hhi]

section
variable {c : Config} (hc : c.Valid) {v : Nat}
include hc

theorem bandMask_band2 (hlo : c.b2 ≤ v) (hhi : v < c.b3) : bandMask c v = 0b101#3 := by
  have h12 := hc.b1_lt_b2
  rw [bandMask, if_neg (by omega), if_neg (by omega), if_pos hhi]

theorem bandMask_band3 (hlo : c.b3 ≤ v) (hhi : v < c.b4) : bandMask c v = 0b011#3 := by
  have h12 := hc.b1_lt_b2
  have h23 := hc.b2_lt_b3
  rw [bandMask, if_neg (by omega), if_neg (by omega), if_neg (by omega), if_pos hhi]

theorem bandMask_band4 (hlo : c.b4 ≤ v) : bandMask c v = 0b111#3 := by
  have h12 := hc.b1_lt_b2
  have h23 := hc.b2_lt_b3
  have h34 := hc.b3_lt_b4
  rw [bandMask, if_neg (by omega), if_neg (by omega), if_neg (by omega), if_neg (by omega)]

end

theorem bandMask_mem (c : Config) (v : Nat) : bandMask c v ∈ [0b000#3, 0b001#3, 0b101#3, 0b011#3, 0b111#3] := by
  unfold bandMask
  split_ifs <;> decide

/-! What each ladder command does. -/

theorem exec_ladSet (v : Byte) (s : State) : exec (.ladSet v) s =
    .next { s with
      pressed := bandMask s.cfg v.toNat, clicks := latchClicks s.clicks s.pressed (bandMask s.cfg v.toNat) } := rfl

theorem exec_ladPressed {b : BitVec 2} (hb : b ≠ 3#2) (s : State) :
    exec (.ladPressed b) s = .next { s with result := BitVec.ofNat 16 (s.pressed.toNat / 2 ^ b.toNat % 2) } := by
  rw [← zextBit_maskBit]
  exact withButton_named hb (encode (.ladPressed b)) fun k => .next (s.setResult (zextBit (maskBit s.pressed k)))

theorem exec_ladClicked {b : BitVec 2} (hb : b ≠ 3#2) (s : State) :
    exec (.ladClicked b) s = .next { s with
      result := BitVec.ofNat 16 (s.clicks.toNat / 2 ^ b.toNat % 2), clicks := clearBit s.clicks b.toNat } := by
  rw [← zextBit_maskBit]
  exact withButton_named hb (encode (.ladClicked b)) fun k =>
    .next ((s.setResult (zextBit (maskBit s.clicks k))).setClicks (clearBit s.clicks k))

theorem exec_ladPressed_three (s : State) : exec (.ladPressed 3#2) s = .fault (.badButton 0x2003#16) := rfl

theorem exec_ladClicked_three (s : State) : exec (.ladClicked 3#2) s = .fault (.badButton 0x3003#16) := rfl

/-! What every command does to the two masks. -/

theorem exec_pressed_of_ne_ladSet {i : Instr} {s t : State} (h : exec i s = .next t) (hi : ∀ v, i ≠ .ladSet v) :
    t.pressed = s.pressed := by
  rcases exec_cases h with ⟨-, rfl⟩ | ⟨v, c, rfl, -⟩ | ⟨b, -, -, rfl⟩ | ⟨b, -, -, rfl⟩ | ⟨a, sp, -, rfl⟩ | ⟨-, rfl⟩ |
    ⟨v, m, -, rfl⟩ | ⟨id, b, l, k, n, p, inc, -, rfl⟩ | ⟨k, n, p, inc, -, rfl⟩
  case inr.inl => exact absurd rfl (hi v)
  all_goals rfl

theorem exec_clicks_of_ne {i : Instr} {s t : State} (h : exec i s = .next t) (hset : ∀ v, i ≠ .ladSet v)
    (hclick : ∀ b, i ≠ .ladClicked b) : t.clicks = s.clicks := by
  rcases exec_cases h with ⟨-, rfl⟩ | ⟨v, c, rfl, -⟩ | ⟨b, -, -, rfl⟩ | ⟨b, rfl, -⟩ | ⟨a, sp, -, rfl⟩ | ⟨-, rfl⟩ |
    ⟨v, m, -, rfl⟩ | ⟨id, b, l, k, n, p, inc, -, rfl⟩ | ⟨k, n, p, inc, -, rfl⟩
  case inr.inl => exact absurd rfl (hset v)
  case inr.inr.inr.inl => exact absurd rfl (hclick b)
  all_goals rfl

/-- The law of one pending click: after a command it is pending if it was and the command does not read it, or if the
command raises its button (R102, R106). -/
theorem maskBit_clicks_exec {i : Instr} {s t : State} (h : exec i s = .next t) {b : BitVec 2} (hb : b ≠ 3#2) :
    maskBit t.clicks b.toNat =
      ((maskBit s.clicks b.toNat && decide (i ≠ .ladClicked b)) || raises b.toNat i s) := by
  have hb3 := toNat_lt_three hb
  cases i with
  | ladSet v =>
    cases h
    simp [maskBit_latchClicks, hb3, raises]
  | ladClicked c =>
    obtain ⟨-, h⟩ := withButton_eq_next.mp (show execLadClicked c s = _ from h)
    cases h
    simp [maskBit_clearBit, hb3, raises, BitVec.toNat_inj, eq_comm (a := b)]
  | _ => simp [exec_clicks_of_ne h nofun nofun, raises]

/-! Runs of commands. -/

theorem runInstrs_completes {is : List Instr} (his : ∀ i ∈ is, i.wellFormed = true) (s : State) :
    ∃ t, runInstrs is s = .next t := by
  induction is generalizing s with
  | nil => exact ⟨s, rfl⟩
  | cons i is ih =>
    obtain ⟨hi, his⟩ := List.forall_mem_cons.mp his
    obtain ⟨u, hu⟩ := (wellFormedCommandsComplete i s).1 hi
    rw [runInstrs_cons, hu]
    exact ih his u

/-- What every command of a run keeps, the run keeps. -/
theorem runInstrs_keeps {P : State → Prop} {is : List Instr}
    (hkeep : ∀ i ∈ is, ∀ s t, exec i s = .next t → P s → P t) {s t : State} (h : runInstrs is s = .next t) (hs : P s) :
    P t := by
  induction is generalizing s with
  | nil => exact Host.Outcome.next.inj h ▸ hs
  | cons i is ih =>
    obtain ⟨hi, his⟩ := List.forall_mem_cons.mp hkeep
    obtain ⟨u, hu, h⟩ := andThen_eq_next.mp h
    exact ih his h (hi s u hu hs)

theorem runInstrs_pressed {is : List Instr} (his : ∀ v, .ladSet v ∉ is) {s t : State} (h : runInstrs is s = .next t) :
    t.pressed = s.pressed :=
  runInstrs_keeps (P := fun u => u.pressed = s.pressed)
    (fun _ hi _ _ hu hs => (exec_pressed_of_ne_ladSet hu fun v hv => his v (hv ▸ hi)).trans hs) h rfl

/-- A pending click stays pending until it is read. -/
theorem runInstrs_keeps_click {b : BitVec 2} (hb : b ≠ 3#2) {is : List Instr} (his : ∀ i ∈ is, i ≠ .ladClicked b)
    {s t : State} (h : runInstrs is s = .next t) (hs : maskBit s.clicks b.toNat = true) :
    maskBit t.clicks b.toNat = true :=
  runInstrs_keeps (P := fun u => maskBit u.clicks b.toNat = true)
    (fun i hi _ _ hu hs => by simp [maskBit_clicks_exec hu hb, hs, his i hi]) h hs

/-- A click that is not pending stays so until its button is raised. -/
theorem runInstrs_keeps_no_click {b : BitVec 2} (hb : b ≠ 3#2) {is : List Instr} {s t : State}
    (hraise : neverRaises b.toNat is s = true) (h : runInstrs is s = .next t) (hs : maskBit s.clicks b.toNat = false) :
    maskBit t.clicks b.toNat = false := by
  induction is generalizing s with
  | nil => exact Host.Outcome.next.inj h ▸ hs
  | cons i is ih =>
    obtain ⟨u, hu, h⟩ := andThen_eq_next.mp h
    simp only [neverRaises, hu, Bool.and_eq_true, Bool.not_eq_true'] at hraise
    obtain ⟨hi, his⟩ := hraise
    exact ih his h (by simp [maskBit_clicks_exec hu hb, hs, hi])

/-- LAD.CLICKED at the end of a run reports the click that the run leaves, and clears it. -/
theorem runInstrs_append_ladClicked {b : BitVec 2} (hb : b ≠ 3#2) {is : List Instr} {s t : State}
    (h : runInstrs is s = .next t) : ∃ u, runInstrs (is ++ [.ladClicked b]) s = .next u ∧
      u.result = zextBit (maskBit t.clicks b.toNat) ∧ maskBit u.clicks b.toNat = false := by
  rw [runInstrs_append, h, zextBit_maskBit, andThen_next, runInstrs_cons, exec_ladClicked hb]
  exact ⟨_, rfl, rfl, maskBit_clearBit_same _ (toNat_lt_three hb)⟩

/-- Settles O34: the click is pending from the LAD.SET to its first read, which clears it, and no command but one that
raises the button makes it pending again. -/
theorem clickReportedExactlyOnce : Obligations.ClickReportedExactlyOnce := by
  intro s v b is hb hraise his
  obtain ⟨r, hr⟩ := runInstrs_completes (is := .ladSet v :: is) (List.forall_mem_cons.mpr ⟨rfl, fun i hi => (his i hi).1⟩) s
  have hpending : maskBit r.clicks b.toNat = true := by
    obtain ⟨u, hu, hr⟩ := andThen_eq_next.mp hr
    exact runInstrs_keeps_click hb (fun i hi => (his i hi).2) hr (by simp [maskBit_clicks_exec hu hb, hraise])
  obtain ⟨t, ht, hresult, hcleared⟩ := runInstrs_append_ladClicked hb hr
  rw [hpending] at hresult
  refine ⟨t, ht, hresult, fun js hjs hnever => ?later⟩
  case later =>
    obtain ⟨w, hw⟩ := runInstrs_completes hjs t
    obtain ⟨u, hu, hresult, -⟩ := runInstrs_append_ladClicked hb hw
    rw [runInstrs_keeps_no_click hb hnever hw hcleared] at hresult
    exact ⟨u, hu, hresult⟩

/-! The statements about one ladder command. -/

/-- Settles O28, band by band. -/
theorem ladderBandsDecode : Obligations.LadderBandsDecode := fun s v hc =>
  ⟨_, exec_ladSet v s, bandMask_band0, bandMask_band1, bandMask_band2 hc, bandMask_band3 hc, bandMask_band4 hc,
    bandMask_mem s.cfg v.toNat⟩

/-- Settles O29. -/
theorem ladSetLatchesRisingEdges : Obligations.LadSetLatchesRisingEdges := fun s v =>
  ⟨encode_ladSet v, _, exec_ladSet v s, maskBit_latchClicks s.clicks s.pressed _⟩

/-- Settles O30: the consequences are those of the law `c ||| (n &&& ~~~p)`. -/
theorem ladSetEdgeLaw : Obligations.LadSetEdgeLaw := by
  intro s t v h
  rw [exec_ladSet, latchClicks_eq] at h
  cases h
  refine ⟨rfl, and_or_absorb _ _, fun _ => getLsbD_of_or_ne, fun s' t' hcfg h' => ?history⟩
  case history =>
    rw [exec_ladSet, hcfg] at h'
    cases h'
    rfl

/-- Settles O31: the pressed mask that the query reads is the one that the last LAD.SET, or reset, left. -/
theorem ladPressedReadsMask : Obligations.LadPressedReadsMask := by
  intro s b
  refine ⟨fun hb is t his => ⟨fun v h => ?lastLadSet, fun c h => ?fromReset⟩, encode_ladPressed b,
    fun hb => exec_ladPressed hb s, ?badButton⟩
  case lastLadSet =>
    rw [runInstrs_cons, exec_ladSet, andThen_next] at h
    rw [exec_ladPressed hb, runInstrs_pressed his h]
  case fromReset =>
    rw [exec_ladPressed hb, runInstrs_pressed his h]
    simp
  case badButton =>
    rintro rfl
    exact exec_ladPressed_three s

/-- Settles O32. -/
theorem ladClickedReadsAndClears : Obligations.LadClickedReadsAndClears := by
  intro s b
  refine ⟨encode_ladClicked b, fun hb => ⟨_, exec_ladClicked hb s, maskBit_clearBit_same _ (toNat_lt_three hb),
    fun k => maskBit_clearBit_of_ne _⟩, ?badButton⟩
  case badButton =>
    rintro rfl
    exact exec_ladClicked_three s

/-- Settles O33. -/
theorem buttonIdThreeFaults : Obligations.ButtonIdThreeFaults := by
  intro s w rest h hw hp
  have hfault := step_badButton hw h hp
  refine ⟨hfault, ?_⟩
  rw [afterStep_of_fault hfault, hp]
  rfl

end Sys2Proof.Machine
end

section
/-! The filter unit: LPF.STEP as one arithmetic step toward the setpoint, its runs, and LPF.GET (41_lpf). -/

namespace Sys2Proof.Machine

/-! Words of the filter commands: the opcode over the operands (R71, R74). -/

theorem encode_lpfStep (a : BitVec 4) (sp : Byte) :
    encode (.lpfStep a sp) = 0x4000#16 ||| a.setWidth 16 <<< 8 ||| sp.setWidth 16 :=
  (BitVec.setWidth_eq _).symm.trans BitVec.setWidth_append_append_eq_shiftLeft_setWidth_or

/-! What each filter command does, and a run of filter steps. -/

theorem exec_lpfStep (a : BitVec 4) (sp : Byte) (s : State) :
    exec (.lpfStep a sp) s = .next { s with y := lpfNext s.cfg a.toNat sp.toNat s.y } := rfl

theorem exec_lpfGet (s : State) : exec .lpfGet s = .next { s with result := zext16 (publicSpeed s) } := rfl

/-- `n` filter steps iterate the filter equation `n` times. -/
theorem lpfRun_eq (n : Nat) (a : BitVec 4) (sp : Byte) (s : State) :
    lpfRun n a sp s = .next { s with y := (lpfNext s.cfg a.toNat sp.toNat)^[n] s.y } := by
  induction n generalizing s with
  | zero => rfl
  | succ n ih => exact ih _

/-! The filter equation as a step toward the setpoint `T` at internal precision (R122). -/

section
variable {c : Config} {sp T : Nat} (hT : T = sp * 2 ^ c.extraBits) (a : Nat) {y : Nat}
include hT

/-- The numerator is `T - y` above a multiple of `2 ^ a`. -/
theorem lpfNext_incremental (y : Nat) : (lpfNext c a sp y : Int) = y + ((T : Int) - y) / 2 ^ a := by
  have hle : y ≤ y * 2 ^ a := Nat.le_mul_of_pos_right y (Nat.two_pow_pos a)
  have hpow : (2 : Int) ^ a ≠ 0 := by positivity
  rw [lpfNext_eq, ← hT, add_comm (y : Int), ← Int.add_mul_ediv_right _ _ hpow]
  push_cast [hle]
  congr 1
  ring

theorem lpfNext_of_le (h : y ≤ T) : lpfNext c a sp y = y + (T - y) / 2 ^ a := by
  zify [h]
  exact lpfNext_incremental hT a y

/-- From above, the rounding toward minus infinity takes one more than the truncated quotient of `y - T - 1`. -/
theorem lpfNext_of_gt (h : T < y) : lpfNext c a sp y = y - ((y - T - 1) / 2 ^ a + 1) := by
  obtain ⟨d, rfl⟩ := Nat.exists_eq_add_of_lt h
  have hle := Nat.le_mul_of_pos_left (T + d + 1) (Nat.two_pow_pos a)
  have hnum : (T + d + 1) * 2 ^ a - (T + d + 1) + T = 2 ^ a * (T + d + 1) - (d + 1) := by
    rw [Nat.mul_comm]
    omega
  have hgap : T + d + 1 - T - 1 = d := by omega
  rw [lpfNext_eq, ← hT, hnum, Nat.mul_sub_div _ _ _ (by omega), hgap]

theorem lpfNext_bounds_of_le (h : y ≤ T) : y ≤ lpfNext c a sp y ∧ lpfNext c a sp y ≤ T := by
  rw [lpfNext_of_le hT a h]
  exact ⟨Nat.le_add_right .., Nat.add_le_of_le_sub' h (Nat.div_le_self ..)⟩

theorem lpfNext_bounds_of_gt (h : T < y) : T ≤ lpfNext c a sp y ∧ lpfNext c a sp y < y := by
  have hdiv : (y - T - 1) / 2 ^ a ≤ y - T - 1 := Nat.div_le_self ..
  rw [lpfNext_of_gt hT a h]
  generalize (y - T - 1) / 2 ^ a = q at hdiv ⊢
  omega

/-- Within `2 ^ a` below the setpoint the filter stalls. -/
theorem lpfNext_of_gap_lt (h : y ≤ T) (hgap : T - y < 2 ^ a) : lpfNext c a sp y = y := by
  rw [lpfNext_of_le hT a h, Nat.div_eq_of_lt hgap, Nat.add_zero]

theorem lpfNext_setpoint : lpfNext c a sp T = T :=
  lpfNext_of_gap_lt hT a le_rfl (by simp)

theorem lt_lpfNext_of_le_gap (h : y ≤ T) (hgap : 2 ^ a ≤ T - y) : y < lpfNext c a sp y := by
  have hpos := Nat.div_pos hgap (Nat.two_pow_pos a)
  rw [lpfNext_of_le hT a h]
  omega

theorem lpfNext_lt_setpoint (ha : 1 ≤ a) (h : y < T) : lpfNext c a sp y < T := by
  have hdiv := Nat.div_lt_self (Nat.sub_pos_of_lt h) (Nat.one_lt_two_pow (Nat.one_le_iff_ne_zero.mp ha))
  rw [lpfNext_of_le hT a h.le]
  omega

theorem lpfNext_zero_shift (y : Nat) : lpfNext c 0 sp y = T := by
  simp [lpfNext_eq, hT]

/-- Within `2 ^ a` above the setpoint the filter creeps down by one (R125). -/
theorem lpfNext_creeps (h : T < y) (hgap : y - T ≤ 2 ^ a) : lpfNext c a sp y = y - 1 := by
  rw [lpfNext_of_gt hT a h, Nat.div_eq_of_lt (by omega), Nat.zero_add]

theorem lpfNext_bounds_of_ge (h : T ≤ y) : T ≤ lpfNext c a sp y ∧ lpfNext c a sp y ≤ y := by
  rcases h.eq_or_lt with rfl | hlt
  · simp [lpfNext_setpoint hT]
  · exact (lpfNext_bounds_of_gt hT a hlt).imp_right le_of_lt

/-! Iterated filter steps (R123). -/

/-- Every start settles: a step that moves comes closer to the setpoint. -/
theorem exists_lpfNext_iterate_fixed (y : Nat) :
    ∃ n, lpfNext c a sp ((lpfNext c a sp)^[n] y) = (lpfNext c a sp)^[n] y := by
  obtain ⟨n, hn⟩ := WellFounded.not_rel_apply_succ (r := (· < ·)) fun n => ((lpfNext c a sp)^[n] y).dist T
  rw [Function.iterate_succ_apply'] at hn
  refine ⟨n, ?_⟩
  generalize (lpfNext c a sp)^[n] y = z at hn ⊢
  unfold Nat.dist at hn
  rcases Nat.lt_or_ge T z with habove | hbelow
  · have := lpfNext_bounds_of_gt hT a habove
    omega
  · have := lpfNext_bounds_of_le hT a hbelow
    omega

theorem exists_lpfNext_iterate_eq_setpoint (h : T ≤ y) : ∃ n, (lpfNext c a sp)^[n] y = T := by
  obtain ⟨n, hfixed⟩ := exists_lpfNext_iterate_fixed hT a y
  have hkeep : Set.MapsTo (lpfNext c a sp) (Set.Ici T) (Set.Ici T) := fun _ hz => (lpfNext_bounds_of_ge hT a hz).1
  refine ⟨n, le_antisymm ?_ (hkeep.iterate n h)⟩
  by_contra! hlt
  exact (lpfNext_bounds_of_gt hT a hlt).2.ne hfixed

theorem lpfNext_iterate_lt_setpoint (ha : 1 ≤ a) (h : y < T) (n : Nat) : (lpfNext c a sp)^[n] y < T :=
  have hkeep : Set.MapsTo (lpfNext c a sp) (Set.Iio T) (Set.Iio T) := fun _ => lpfNext_lt_setpoint hT a ha
  hkeep.iterate n h

theorem exists_lpfNext_iterate_stalls (ha : 1 ≤ a) (h : y < T) : ∃ n y', T + 1 ≤ y' + 2 ^ a ∧ y' + 1 ≤ T ∧
    ∀ m, n ≤ m → (lpfNext c a sp)^[m] y = y' := by
  obtain ⟨n, hfixed⟩ := exists_lpfNext_iterate_fixed hT a y
  have hlt := lpfNext_iterate_lt_setpoint hT a ha h n
  refine ⟨n, _, ?near, hlt, fun m hm => ?stays⟩
  case near =>
    by_contra! hfar
    exact (lt_lpfNext_of_le_gap hT a hlt.le (by omega)).ne' hfixed
  case stays =>
    obtain ⟨k, rfl⟩ := Nat.exists_eq_add_of_le' hm
    rw [Function.iterate_add_apply, Function.iterate_fixed hfixed]

end

/-- A value that has settled below the setpoint, closer than one public unit, reads one public unit below it. -/
theorem div_eq_pred_of_near {sp d y e : Nat} (hsp : 1 ≤ sp) (hd : d ≤ 2 ^ e) (hnear : sp * 2 ^ e + 1 ≤ y + d)
    (hlt : y + 1 ≤ sp * 2 ^ e) : y / 2 ^ e = sp - 1 := by
  obtain ⟨k, rfl⟩ := Nat.exists_eq_add_of_le' hsp
  rw [Nat.add_mul, Nat.one_mul] at hnear hlt
  rw [Nat.add_sub_cancel]
  exact Nat.div_eq_of_lt_le (by omega) (by rw [Nat.add_mul]; omega)

/-- Settles O37: a run iterates the filter equation, and each law is one about its steps or its iterates. -/
theorem lpfConvergenceLaws : Obligations.LpfConvergenceLaws := by
  intro s a sp T hT
  simp only [exec_lpfStep, lpfRun_eq]
  refine ⟨?fixed, fun h => ⟨_, rfl, lpfNext_bounds_of_le hT _ h⟩,
    fun h => ⟨_, rfl, lpfNext_bounds_of_ge hT _ h⟩, ?falls, ?fromBelow, ?jumps, ?publicSpeed⟩
  case fixed =>
    rintro rfl
    rw [lpfNext_setpoint hT]
  case falls =>
    intro h
    obtain ⟨n, hn⟩ := exists_lpfNext_iterate_eq_setpoint hT a.toNat h.le
    exact ⟨⟨_, rfl, (lpfNext_bounds_of_gt hT _ h).2⟩, n, by rw [hn]⟩
  case fromBelow =>
    intro ha h
    refine ⟨fun n => ⟨_, rfl, lpfNext_iterate_lt_setpoint hT _ ha h n⟩, fun hgap => ?_,
      fun hgap => ⟨_, rfl, lt_lpfNext_of_le_gap hT _ h.le hgap⟩, ?_⟩
    · rw [lpfNext_of_gap_lt hT _ h.le hgap]
    · obtain ⟨n, y', hnear, hlt, hstays⟩ := exists_lpfNext_iterate_stalls hT a.toNat ha h
      exact ⟨n, y', hnear, hlt, fun m hm => by rw [hstays m hm]⟩
  case jumps =>
    intro ha
    rw [ha, lpfNext_zero_shift hT]
  case publicSpeed =>
    intro ha hE hsp h
    obtain ⟨n, y', hnear, hlt, hstays⟩ := exists_lpfNext_iterate_stalls hT a.toNat ha h
    refine ⟨n, fun m hm => ⟨_, rfl, ?_⟩⟩
    rw [hstays m hm]
    subst hT
    exact div_eq_pred_of_near hsp (Nat.pow_le_pow_right two_pos hE) hnear hlt

/-- Settles O35: the shifts of the equation are a product and a quotient. -/
theorem lpfStepFollowsFilterEquation : Obligations.LpfStepFollowsFilterEquation := by
  intro s a sp
  rw [exec_lpfStep, lpfNext_eq]
  exact ⟨rfl, Nat.le_mul_of_pos_right _ (Nat.two_pow_pos _), encode_lpfStep a sp⟩

/-- Settles O36: a divisor that is not negative makes the floor the Euclidean quotient. -/
theorem lpfStepIncrementalForm : Obligations.LpfStepIncrementalForm := by
  intro s a sp
  refine ⟨_, exec_lpfStep a sp s, ?_, fun h => (lpfNext_bounds_of_gt rfl _ h).2⟩
  rw [Int.fdiv_eq_ediv_of_nonneg _ (by positivity)]
  exact lpfNext_incremental rfl _ s.y

/-! The filter's widths (R124). -/

theorem two_pow_wF (c : Config) : 2 ^ c.wF = 256 * 2 ^ c.extraBits := Nat.pow_add 2 8 c.extraBits

theorem setpoint_lt_two_pow_wF (c : Config) (sp : Byte) : sp.toNat * 2 ^ c.extraBits < 2 ^ c.wF := by
  rw [two_pow_wF]
  exact Nat.mul_lt_mul_of_pos_right sp.isLt (Nat.two_pow_pos _)

theorem lpfNext_eq_accumulator (c : Config) (a sp y : Nat) :
    lpfNext c a sp y = (y * (2 ^ a - 1) + sp * 2 ^ c.extraBits) / 2 ^ a := by
  rw [lpfNext_eq, Nat.mul_sub_one]

/-- The accumulator fits because its quotient by `2 ^ a` is a filter value. -/
theorem accumulator_lt {c : Config} (a : Nat) (sp : Byte) {y : Nat} (hy : y < 2 ^ c.wF) :
    y * (2 ^ a - 1) + sp.toNat * 2 ^ c.extraBits < 2 ^ (c.wF + a) := by
  rw [Nat.pow_add, ← Nat.div_lt_iff_lt_mul (Nat.two_pow_pos a), ← lpfNext_eq_accumulator]
  exact lpfNext_lt a sp.isLt hy

/-- Settles O38: the accumulator fits for the shift `a`, and no shift is above 15. -/
theorem lpfNeverOverflows : Obligations.LpfNeverOverflows := by
  intro s a sp hy
  have hacc := accumulator_lt a.toNat sp hy
  have hwidth : 2 ^ (s.cfg.wF + a.toNat) ≤ 2 ^ (s.cfg.wF + 15) := by
    have ha := a.isLt
    exact Nat.pow_le_pow_right two_pos (by omega)
  exact ⟨setpoint_lt_two_pow_wF s.cfg sp, hacc, hacc.trans_le hwidth, _, exec_lpfStep a sp s,
    lpfNext_eq_accumulator .., lpfNext_lt _ sp.isLt hy⟩

/-- With setpoint 0 a step takes `y / 2 ^ a` off, rounded up. -/
theorem lpfNext_zero_setpoint (c : Config) (a y : Nat) : lpfNext c a 0 y = y - (y + 2 ^ a - 1) / 2 ^ a := by
  have hT : 0 = 0 * 2 ^ c.extraBits := (Nat.zero_mul _).symm
  have hpos := Nat.two_pow_pos a
  rcases y.eq_zero_or_pos with rfl | hy
  · rw [lpfNext_setpoint hT, Nat.zero_sub]
  · have hceil : y + 2 ^ a - 1 = y - 0 - 1 + 2 ^ a := by omega
    rw [lpfNext_of_gt hT a hy, hceil, Nat.add_div_right _ hpos]

/-- Settles O39: every case is the step below, at or above the setpoint, at particular operands. -/
theorem lpfCornerCases : Obligations.LpfCornerCases := by
  intro s a sp T hT
  simp only [exec_lpfStep, lpfRun_eq]
  refine ⟨?zeroShift, ?zeroSetpoint, ?reachesZero, ?fromOne, ?fromThree, ?largest, ?stuckAtZero,
    fun ha hy => ?wideShift⟩
  case zeroShift =>
    intro ha
    rw [ha, lpfNext_zero_shift hT]
  case zeroSetpoint =>
    rintro rfl
    rw [← lpfNext_zero_setpoint s.cfg]
    rfl
  case reachesZero =>
    rintro rfl -
    obtain ⟨n, hn⟩ := exists_lpfNext_iterate_eq_setpoint hT a.toNat (y := s.y) (by simp [hT])
    exact ⟨n, by rw [hn, hT]; simp⟩
  case fromOne =>
    rintro hy rfl rfl
    simp [hy, lpfNext_eq]
  case fromThree =>
    rintro hy rfl rfl
    simp [hy, lpfNext_eq]
  case largest =>
    rintro hE hy rfl rfl
    rw [two_pow_wF, hE] at hy
    rw [hE] at hT
    simp [hT, hy, lpfNext_eq, hE]
  case stuckAtZero =>
    intro hy _ hlt
    rw [lpfNext_of_gap_lt hT _ (by omega) (by omega)]
  case wideShift =>
    have hT' := hT ▸ setpoint_lt_two_pow_wF s.cfg sp
    have hw : 2 ^ s.cfg.wF ≤ 2 ^ a.toNat := Nat.pow_le_pow_right two_pos ha.le
    refine ⟨fun h => ?_, fun h => ?_⟩
    · rw [lpfNext_of_gap_lt hT _ h (by omega)]
    · rw [lpfNext_creeps hT _ h (by omega)]

/-! Reading the public speed (R126). -/

theorem publicSpeed_lt {c : Config} {y : Nat} (hy : y < 2 ^ c.wF) : y / 2 ^ c.extraBits < 256 := by
  rwa [Nat.div_lt_iff_lt_mul (Nat.two_pow_pos _), ← two_pow_wF]

theorem zext16_publicSpeed {s : State} (hy : s.y < 2 ^ s.cfg.wF) :
    zext16 (publicSpeed s) = BitVec.ofNat 16 (s.y / 2 ^ s.cfg.extraBits) := by
  rw [zext16, publicSpeed, Nat.shiftRight_eq_div_pow]
  exact BitVec.setWidth_ofNat_of_le_of_lt (by decide) (publicSpeed_lt hy)

/-- Settles O40: a filter value within its width is a public speed of 8 bits, so the truncation to 8 bits loses nothing. -/
theorem lpfGetReadsPublicSpeed : Obligations.LpfGetReadsPublicSpeed := by
  intro s hy
  have hlt := publicSpeed_lt hy
  rw [exec_lpfGet, zext16_publicSpeed hy]
  refine ⟨rfl, hlt, fun hE => ⟨_, rfl, ?exact⟩, fun hE hmax => ⟨_, rfl, ?truncated⟩, rfl⟩
  case exact =>
    rw [hE, Nat.pow_zero, Nat.div_one] at hlt ⊢
    exact Nat.mod_eq_of_lt (by omega)
  case truncated =>
    rw [hE, hmax]
    rfl

end Sys2Proof.Machine
end

section
/-! The oscillator unit: the interpolator, the two track ticks, the mixer, OSC.SAMPLE, and the phases over a run
(42_oscillator). -/

namespace Sys2Proof.Machine

/-! The interpolator (R143). -/

theorem interp_first_third {f ph : Nat} (table : List Byte) (h : 3 * (ph % 2 ^ f) < 2 ^ f) :
    interp table f ph = entry table (ph / 2 ^ f) := by
  rw [interp, if_pos h, Nat.shiftRight_eq_div_pow]

theorem interp_last_third {f ph : Nat} (table : List Byte) (h : 2 ^ (f + 1) ≤ 3 * (ph % 2 ^ f)) :
    interp table f ph = entry table ((ph / 2 ^ f + 1) % table.length) := by
  have hlow : ¬ 3 * (ph % 2 ^ f) < 2 ^ f := by
    rw [Nat.pow_succ] at h
    omega
  rw [interp, if_neg hlow, if_pos h, Nat.shiftRight_eq_div_pow]

theorem interp_middle_third {f ph : Nat} (table : List Byte) (hlow : 2 ^ f ≤ 3 * (ph % 2 ^ f))
    (hhigh : 3 * (ph % 2 ^ f) < 2 ^ (f + 1)) :
    interp table f ph = average (entry table (ph / 2 ^ f)) (entry table ((ph / 2 ^ f + 1) % table.length)) := by
  rw [interp, if_neg hlow.not_gt, if_neg hhigh.not_ge, Nat.shiftRight_eq_div_pow]

/-- Settles O41: a phase of the track has its index in the table, so each third reads entries of the table. -/
theorem interpolationThirds : Obligations.InterpolationThirds := by
  refine ⟨?_, by decide⟩
  rintro table f ph _ _ hph rfl rfl
  have hidx : ph / 2 ^ f < table.length := Nat.div_lt_of_lt_mul (Nat.mul_comm _ _ ▸ hph)
  have hnext : (ph / 2 ^ f + 1) % table.length < table.length := Nat.mod_lt _ (Nat.zero_lt_of_lt hidx)
  refine ⟨hidx, fun h => ?first, fun hlow hhigh => ?middle, fun h => ?last, by omega, by omega⟩
  case first => rw [interp_first_third table h, entry_eq_getElem? hidx]
  case middle =>
    refine ⟨_, _, entry_eq_getElem? hidx, entry_eq_getElem? hnext, ?_⟩
    rw [interp_middle_third table hlow hhigh, average_toNat]
  case last => rw [interp_last_third table h, entry_eq_getElem? hnext]

/-! The track ticks (R141, R142). -/

theorem engineTick_zero (c : Config) (ph : Nat) : engineTick c (0#8).toNat ph = (0, silence) := rfl

theorem engineTick_of_ne_zero (c : Config) {v : Byte} (hv : v ≠ 0#8) (ph : Nat) :
    engineTick c v.toNat ph =
      ((ph + v.toNat / 2 ^ c.engShift) % c.lE, interp c.engTable c.fE ((ph + v.toNat / 2 ^ c.engShift) % c.lE)) := by
  have hne : v.toNat ≠ 0 := fun h => hv (BitVec.eq_of_toNat_eq h)
  rw [engineTick, if_neg hne, Nat.shiftRight_eq_div_pow]

theorem hornTrackTick_sounding (c : Config) {playing : Bool} {hinc : Nat} (h : playing = true ∧ hinc ≠ 0) (ph : Nat) :
    hornTrackTick c playing hinc ph = ((ph + hinc) % c.lH, interp c.hornTable c.fH ((ph + hinc) % c.lH)) :=
  if_pos h

theorem hornTrackTick_silent (c : Config) {playing : Bool} {hinc : Nat} (h : playing = false ∨ hinc = 0) (ph : Nat) :
    hornTrackTick c playing hinc ph = (ph, silence) :=
  if_neg (by rcases h with h | h <;> simp [h])

/-- An engine increment stays below the engine track's length, so one subtraction wraps the phase (R9). -/
theorem engineIncrement_lt {c : Config} (hc : c.Valid) (v : Byte) : v.toNat / 2 ^ c.engShift < c.lE := by
  have hv : v.toNat ≤ 255 := Nat.le_of_lt_succ v.isLt
  have hmax := hc.engIncrement_lt
  rw [Nat.shiftRight_eq_div_pow] at hmax
  exact (Nat.div_le_div_right hv).trans_lt hmax

/-- The current increment is 0 or a note's, so it stays below the horn track's length. -/
theorem State.Inv.hinc_lt {s : State} (h : s.Inv) : s.hinc < s.cfg.lH := by
  rw [h.hinc]
  split
  · exact noteIncOf_lt h.cfg _
  · exact h.cfg.lH_pos

/-! The mixer (R144). -/

theorem mix_toNat (eng horn : Byte) :
    ((mix eng horn).toNat : Int) = min (max ((eng.toNat : Int) + horn.toNat - 128) 0) 255 := by
  have hclamp := clamp_bounds ((eng.toNat : Int) + horn.toNat - Config.mid) (lo := 0) (hi := 255) (by decide)
  rw [mix, BitVec.toNat_ofInt, Int.emod_eq_of_lt (by omega) (by omega), Int.toNat_of_nonneg (by omega)]
  rfl

@[simp] theorem mix_silence_right (eng : Byte) : mix eng silence = eng := by
  have hmix := mix_toNat eng silence
  have hs : silence.toNat = 128 := rfl
  have := eng.isLt
  apply BitVec.eq_of_toNat_eq
  omega

theorem mix_comm (eng horn : Byte) : mix eng horn = mix horn eng := by
  rw [mix, mix, Int.add_comm]

@[simp] theorem mix_silence_left (horn : Byte) : mix silence horn = horn := by
  rw [mix_comm, mix_silence_right]

/-- Settles O44. -/
theorem mixerSaturates : Obligations.MixerSaturates := by
  refine ⟨fun eng horn => ?_, mix_silence_right, mix_silence_left, by decide, by decide⟩
  have := eng.isLt
  have := horn.isLt
  exact ⟨by omega, by omega, mix_toNat eng horn⟩

/-! OSC.SAMPLE (R145). -/

theorem encode_oscSample (v : Byte) : encode (.oscSample v) = 0x6000#16 ||| v.setWidth 16 := rfl

theorem exec_oscSample (v : Byte) (s : State) : exec (.oscSample v) s =
    .next { s with
      phE := (engineTick s.cfg v.toNat s.phE).1
      phH := (hornTrackTick s.cfg s.playing s.hinc s.phH).1
      result := zext16 (mix (engineTick s.cfg v.toNat s.phE).2 (hornTrackTick s.cfg s.playing s.hinc s.phH).2) } := rfl

theorem zext16_toNat (v : Byte) : (zext16 v).toNat = v.toNat :=
  BitVec.toNat_setWidth_of_le (by decide)

/-- Settles O45. -/
theorem oscSampleMixesTracks : Obligations.OscSampleMixesTracks := by
  rintro s v _ _ rfl rfl
  refine ⟨_, exec_oscSample v s, ?_, encode_oscSample v⟩
  rw [zext16_toNat, mix_toNat]

/-- Settles O42: the phase and the increment are below the track's length, and the mix with a silent horn is the engine's
sample. -/
theorem engineTrackAdvances : Obligations.EngineTrackAdvances := by
  intro s v hs
  refine ⟨_, exec_oscSample v s, ?stopped, fun hv => ?advances, fun hv hinc => ?holds⟩
  case stopped =>
    rintro rfl
    rw [engineTick_zero]
    refine ⟨rfl, fun h => ?_⟩
    rw [hornTrackTick_silent _ (.inl h), mix_silence_right]
    rfl
  case advances =>
    rw [engineTick_of_ne_zero _ hv]
    refine ⟨add_mod_wrap hs.phE (engineIncrement_lt hs.cfg v), fun h => ?_⟩
    rw [hornTrackTick_silent _ (.inl h), mix_silence_right, zext16]
  case holds =>
    rw [engineTick_of_ne_zero _ hv, hinc]
    exact Nat.mod_eq_of_lt hs.phE

/-- Settles O43: the phase and the increment are below the track's length, and the mix with a stopped engine is the horn's
sample. -/
theorem hornTrackAdvances : Obligations.HornTrackAdvances := by
  intro s v hs
  refine ⟨_, exec_oscSample v s, fun hplay hinc => ?sounding, fun hrest => ?silent⟩
  case sounding =>
    rw [hornTrackTick_sounding _ ⟨hplay, hinc⟩]
    refine ⟨add_mod_wrap hs.phH hs.hinc_lt, ?_⟩
    rintro rfl
    rw [engineTick_zero, mix_silence_left, zext16]
  case silent =>
    rw [hornTrackTick_silent _ hrest]
    refine ⟨rfl, ?_⟩
    rintro rfl
    rw [engineTick_zero, mix_silence_left]
    rfl

/-! The phases over a run (R147). -/

theorem enginePhaseAfter_append (c : Config) (ph : Nat) (us vs : List Byte) :
    enginePhaseAfter c ph (us ++ vs) = enginePhaseAfter c (enginePhaseAfter c ph us) vs := List.foldl_append

theorem hornPhaseAfter_append (c : Config) (ph : Nat) (is js : List Nat) :
    hornPhaseAfter c ph (is ++ js) = hornPhaseAfter c (hornPhaseAfter c ph is) js := List.foldl_append

theorem enginePhaseAfter_zero_cons (c : Config) (ph : Nat) (vs : List Byte) :
    enginePhaseAfter c ph (0#8 :: vs) = enginePhaseAfter c 0 vs := rfl

theorem engineTick_phase (c : Config) (v : Byte) (ph : Nat) :
    (engineTick c v.toNat ph).1 = enginePhaseAfter c ph [v] := by
  by_cases hv : v = 0#8
  · subst hv
    rfl
  · simp [engineTick_of_ne_zero c hv, enginePhaseAfter, hv]

theorem soundingIncrements_singleton (i : Instr) (s : State) :
    soundingIncrements [i] s =
      if (oscOperand i).isSome = true ∧ s.playing = true ∧ s.hinc ≠ 0 then [s.hinc] else [] := by
  cases h : exec i s <;> simp [soundingIncrements, h]

theorem soundingIncrements_cons {i : Instr} {s t : State} (h : exec i s = .next t) (is : List Instr) :
    soundingIncrements (i :: is) s = soundingIncrements [i] s ++ soundingIncrements is t := by
  rw [soundingIncrements_singleton, soundingIncrements, h]

theorem hornTrackTick_phase (v : Byte) (s : State) :
    (hornTrackTick s.cfg s.playing s.hinc s.phH).1 =
      hornPhaseAfter s.cfg s.phH (soundingIncrements [.oscSample v] s) := by
  rw [soundingIncrements_singleton]
  by_cases h : s.playing = true ∧ s.hinc ≠ 0
  · rw [hornTrackTick_sounding _ h, if_pos ⟨rfl, h⟩]
    rfl
  · have hrest : s.playing = false ∨ s.hinc = 0 := by simpa [imp_iff_not_or] using h
    rw [hornTrackTick_silent _ hrest, if_neg fun hs => h hs.2]
    rfl

theorem soundingIncrements_of_no_operand {i : Instr} (hi : oscOperand i = none) (s : State) :
    soundingIncrements [i] s = [] := by
  simp [soundingIncrements_singleton, hi]

/-- One command moves the engine phase by its own operand and the horn phase by its own sounding tick. -/
theorem exec_phases {i : Instr} {s t : State} (h : exec i s = .next t) :
    t.phE = enginePhaseAfter s.cfg s.phE ([i].filterMap oscOperand) ∧
    t.phH = hornPhaseAfter s.cfg s.phH (soundingIncrements [i] s) := by
  rcases exec_cases h with ⟨rfl, rfl⟩ | ⟨v, c, rfl, rfl⟩ | ⟨b, rfl, -, rfl⟩ | ⟨b, rfl, -, rfl⟩ | ⟨a, sp, rfl, rfl⟩ |
    ⟨rfl, rfl⟩ | ⟨v, m, rfl, rfl⟩ | ⟨id, b, l, k, n, p, inc, rfl, rfl⟩ | ⟨k, n, p, inc, rfl, rfl⟩
  case inr.inr.inr.inr.inr.inr.inl => exact ⟨engineTick_phase s.cfg v s.phE, hornTrackTick_phase v s⟩
  all_goals
    rw [soundingIncrements_of_no_operand rfl]
    exact ⟨rfl, rfl⟩

theorem runInstrs_phases {is : List Instr} {s t : State} (h : runInstrs is s = .next t) :
    t.phE = enginePhaseAfter s.cfg s.phE (is.filterMap oscOperand) ∧
    t.phH = hornPhaseAfter s.cfg s.phH (soundingIncrements is s) := by
  induction is generalizing s with
  | nil => exact Host.Outcome.next.inj h ▸ ⟨rfl, rfl⟩
  | cons i is ih =>
    obtain ⟨u, hu, h⟩ := andThen_eq_next.mp h
    obtain ⟨hphE, hphH⟩ := exec_phases hu
    obtain ⟨hcfg, -⟩ := commandsKeepConfiguration i s u hu
    rw [soundingIncrements_cons hu, ← List.singleton_append, List.filterMap_append, enginePhaseAfter_append,
      hornPhaseAfter_append, ← hphE, ← hphH, ← hcfg]
    exact ih h

/-- Settles O46: a run folds over its commands what each does to the two phases, and a zero operand resets the engine's. -/
theorem tracksAreIndependent : Obligations.TracksAreIndependent := by
  refine ⟨fun _ _ _ => runInstrs_phases, fun c ph ph' us vs => ?_⟩
  rw [enginePhaseAfter_append, enginePhaseAfter_zero_cons, enginePhaseAfter_zero_cons]

end Sys2Proof.Machine
end

section
/-! The horn sequencer: which songs start, note durations, HORN.TICK by cases, and the timing of a whole song
(43_horn_sequencer). -/

namespace Sys2Proof.Machine

/-! Words of the sequencer's commands (R71, R74). -/

theorem encode_hornPlay (id : Byte) : encode (.hornPlay id) = 0x7000#16 ||| id.setWidth 16 := rfl

theorem encode_hornTick : encode .hornTick = 0x8000#16 := rfl

/-! HORN.PLAY (R170, R171). -/

theorem startSong_buf (notes : List Byte) (s : State) : (startSong notes s).buf = notes ++ s.buf.drop notes.length := rfl

theorem exec_hornPlay_playable {s : State} {id : Byte} {notes : List Byte} (hsong : s.cfg.songLib[id.toNat]? = some notes)
    (hpos : 1 ≤ notes.length) : exec (.hornPlay id) s = .next (startSong notes s) := by
  simp only [exec, execHornPlay, playableNotes_eq_some.mpr ⟨hsong, hpos⟩]

theorem exec_hornPlay_unplayable {s : State} {id : Byte}
    (h : ¬ ∃ notes, s.cfg.songLib[id.toNat]? = some notes ∧ 1 ≤ notes.length) : exec (.hornPlay id) s = .next s := by
  have hnone : playableNotes s.cfg id = none :=
    Option.eq_none_iff_forall_ne_some.mpr fun notes hn => h ⟨notes, playableNotes_eq_some.mp hn⟩
  simp only [exec, execHornPlay, hnone]

/-- Settles O47. -/
theorem unplayableSongsIgnored : Obligations.UnplayableSongsIgnored :=
  fun _ _ => ⟨exec_hornPlay_unplayable, fun ⟨_, hsong, hpos⟩ => ⟨_, exec_hornPlay_playable hsong hpos, rfl⟩⟩

/-- Settles O48: the buffer is the song followed by what lay beyond it, so its first entry is the song's. -/
theorem hornPlayStartsSong : Obligations.HornPlayStartsSong := by
  intro s id hs
  refine ⟨encode_hornPlay id, fun hempty => exec_hornPlay_unplayable ?unplayable, fun notes hsong hpos => ?playable⟩
  case unplayable =>
    rintro ⟨notes, hsong, hpos⟩
    rw [hempty notes hsong] at hpos
    cases hpos
  case playable =>
    have hfit := hs.cfg.song_length_le hsong
    have hstart := hs.startSong hpos hfit
    have hcopy (k : Nat) (hk : k < notes.length) : (startSong notes s).buf[k]? = notes[k]? :=
      List.getElem?_append_left hk
    have hbeyond (k : Nat) (hk : notes.length ≤ k) : (startSong notes s).buf[k]? = s.buf[k]? := by
      rw [startSong_buf, List.getElem?_append_right hk, List.getElem?_drop, Nat.add_sub_cancel' hk]
    have hfirst : (startSong notes s).buf[0]? = some (entry (startSong notes s).buf 0) :=
      entry_eq_getElem? (hstart.buf ▸ hs.cfg.maxSongLen_pos)
    exact ⟨_, _, _, exec_hornPlay_playable hsong hpos, hfit.trans_lt (Nat.lt_succ_of_le hs.cfg.maxSongLen_le),
      hstart.buf.trans hs.buf.symm, hcopy, hbeyond, (hcopy 0 hpos).symm.trans hfirst, (noteIncOf_eq hs.cfg _).symm⟩

/-! Notes: durations and increments (R174). -/

theorem noteDur_pos {c : Config} (hc : c.Valid) (code : Byte) : 1 ≤ noteDur c code := by
  unfold noteDur
  split
  · exact Nat.one_le_of_lt hc.durNote_lt
  · exact hc.durNote_pos

/-- NOTE_INC is 0 at its first entry and at no other (R9), so the zero increment is the rest's alone. -/
theorem noteIncOf_eq_zero_iff {c : Config} (hc : c.Valid) (code : Byte) : noteIncOf c code = 0 ↔ code = 0#8 := by
  have hinc := noteIncOf_eq hc code
  constructor
  · intro hzero
    by_contra hne
    obtain ⟨n, hn⟩ : ∃ n, code.toNat = n + 1 := Nat.exists_eq_succ_of_ne_zero (by bv_omega)
    rw [hn, ← List.getElem?_tail] at hinc
    have hmem := List.all_eq_true.mp hc.noteInc_tail _ (List.mem_of_getElem? hinc.symm)
    simp [hzero] at hmem
  · rintro rfl
    have hhead := List.head?_eq_getElem? (l := c.noteInc) ▸ hc.noteInc_head
    exact Option.some.inj (hinc.trans hhead)

/-- Settles O49. -/
theorem noteDurations : Obligations.NoteDurations := fun _ code hc =>
  ⟨fun h => if_pos h, fun h => if_neg h, (noteIncOf_eq_zero_iff hc code).symm, hc.durNote_lt, hc.durNote_pos⟩

/-! HORN.TICK (R175). -/

theorem exec_hornTick_stopped {s : State} (h : s.playing = false) : exec .hornTick s = .next { s with hinc := 0 } := by
  simp [exec, execHornTick, refreshIncrement, State.setHinc, h]

/-- Settles O51: the increment of a stopped state is 0 already. -/
theorem tickWhileStoppedChangesNothing : Obligations.TickWhileStoppedChangesNothing := by
  intro s hs hstop
  have hinc : s.hinc = 0 := hs.hinc.trans (if_neg (by simp [hstop]))
  rw [exec_hornTick_stopped hstop, ← hinc]

theorem exec_hornTick_within {s : State} (hplay : s.playing = true)
    (h : (s.ncnt + 1#8).toNat < noteDur s.cfg (entry s.buf s.nidx.toNat)) :
    exec .hornTick s =
      .next { s with ncnt := s.ncnt + 1#8, hinc := noteIncOf s.cfg (entry s.buf s.nidx.toNat) } := by
  have hadv : advanceNote s = s.setCursor s.nidx (s.ncnt + 1#8) true := if_neg (Nat.not_le_of_lt h)
  simp [exec, execHornTick, refreshIncrement, State.setHinc, State.setCursor, hplay, hadv]

theorem exec_hornTick_noteEnd {s : State} (hplay : s.playing = true)
    (h : noteDur s.cfg (entry s.buf s.nidx.toNat) ≤ (s.ncnt + 1#8).toNat) :
    exec .hornTick s =
      .next (refreshIncrement (s.setCursor (s.nidx + 1#8) 0#8 (stillPlaying (s.nidx + 1#8) s.slen))) := by
  have hadv : advanceNote s = s.setCursor (s.nidx + 1#8) 0#8 (stillPlaying (s.nidx + 1#8) s.slen) := if_pos h
  simp only [exec, execHornTick, if_pos hplay, hadv]

/-- A playing cursor is below the song's length, so it does not wrap. -/
theorem State.Inv.cursor_succ {s : State} (h : s.Inv) (hplay : s.playing = true) :
    (s.nidx + 1#8).toNat = s.nidx.toNat + 1 := by
  have := h.playing hplay
  bv_omega

/-- The counter is below the longest duration, so it does not wrap. -/
theorem State.Inv.counter_succ {s : State} (h : s.Inv) : (s.ncnt + 1#8).toNat = s.ncnt.toNat + 1 := by
  have := h.ncnt
  have := h.cfg.durRest_le
  bv_omega

/-- Every cursor below the song's length has its note in the buffer. -/
theorem State.Inv.entry_buf {s : State} (h : s.Inv) {k : Nat} (hk : k < s.slen.toNat) :
    s.buf[k]? = some (entry s.buf k) :=
  entry_eq_getElem? (h.buf ▸ hk.trans_le h.slen)

/-- Settles O50: the tick that reaches the note's duration moves the cursor, and the song plays on while that is below
the length. -/
theorem hornTickAdvancesSequencer : Obligations.HornTickAdvancesSequencer := by
  intro s hs
  refine ⟨encode_hornTick, exec_hornTick_stopped, fun hplay => ⟨_, noteDur s.cfg _,
    hs.entry_buf (hs.playing hplay), rfl, fun hcount => ?within, fun hend hnext => ⟨_, hs.entry_buf hnext, ?next⟩,
    fun hend hlast => ?last⟩⟩
  case within => exact exec_hornTick_within hplay (hs.counter_succ ▸ hcount)
  case next =>
    have hstill : stillPlaying (s.nidx + 1#8) s.slen = true := by
      simpa [stillPlaying, BitVec.lt_def, hs.cursor_succ hplay] using hnext
    rw [exec_hornTick_noteEnd hplay (hs.counter_succ ▸ hend), hstill, ← hs.cursor_succ hplay]
    simp [refreshIncrement, State.setHinc, State.setCursor, hplay]
  case last =>
    have hstop : stillPlaying (s.nidx + 1#8) s.slen = false := by
      simpa [stillPlaying, BitVec.le_def, hs.cursor_succ hplay] using hlast
    rw [exec_hornTick_noteEnd hplay (hs.counter_succ ▸ hend), hstop]
    rfl

/-! The timing of a song (R176). -/

/-- A note starts when the one before it ends. -/
theorem ticksBefore_succ (c : Config) {notes : List Byte} {k : Nat} {code : Byte} (h : notes[k]? = some code) :
    ticksBefore c notes (k + 1) = ticksBefore c notes k + noteDur c code := by
  simp [ticksBefore, List.take_add_one, h]

theorem ticksBefore_mono (c : Config) (notes : List Byte) : Monotone (ticksBefore c notes) :=
  fun _ _ h => List.Sublist.sum_le_sum ((List.take_sublist_take_left h).map _) (fun _ _ => Nat.zero_le _)

/-- The state `m` ticks after the song `notes` started. While it plays, `m` falls within the ticks of the note at the
cursor, of which the counter has counted those past the note's start; it is stopped only once all notes are over. -/
structure AtTick (c : Config) (notes : List Byte) (m : Nat) (s : State) : Prop where
  inv : s.Inv
  cfg : s.cfg = c
  slen : s.slen.toNat = notes.length
  song : notes <+: s.buf
  playing : s.playing = true → m = ticksBefore c notes s.nidx.toNat + s.ncnt.toNat ∧
    m < ticksBefore c notes (s.nidx.toNat + 1)
  stopped : s.playing = false → s.nidx = s.slen ∧ ticksBefore c notes notes.length ≤ m

theorem AtTick.startSong {s : State} (hs : s.Inv) {notes : List Byte} (hpos : 1 ≤ notes.length)
    (hfit : notes.length ≤ s.cfg.maxSongLen) : AtTick s.cfg notes 0 (startSong notes s) where
  inv := hs.startSong hpos hfit
  cfg := rfl
  slen := Nat.mod_eq_of_lt (hfit.trans_lt (Nat.lt_succ_of_le hs.cfg.maxSongLen_le))
  song := List.prefix_append ..
  playing := fun _ => by
    have hfirst := ticksBefore_succ s.cfg (List.getElem?_eq_getElem hpos)
    exact ⟨rfl, hfirst ▸ Nat.add_pos_right _ (noteDur_pos hs.cfg _)⟩
  stopped := nofun

namespace AtTick

variable {c : Config} {notes : List Byte} {m : Nat} {s : State} (h : AtTick c notes m s)
include h

/-- The buffer's notes are the song's. -/
theorem notes_eq_some {k : Nat} (hk : k < s.slen.toNat) {code : Byte} (hcode : s.buf[k]? = some code) :
    notes[k]? = some code := by
  have hk' : k < notes.length := h.slen ▸ hk
  rw [List.getElem?_eq_getElem hk', ← List.prefix_iff_getElem?.mp h.song k hk', hcode]

/-- One tick later in a playing song: within a note both `m` and the counter grow; at its end `m + 1` is the start of the
next note, or the song's end. -/
theorem exec_hornTick_playing (hplay : s.playing = true) :
    ∃ t, exec .hornTick s = .next t ∧ AtTick c notes (m + 1) t := by
  obtain ⟨-, -, hcases⟩ := hornTickAdvancesSequencer s h.inv
  obtain ⟨code, d, hcode, hd, hwithin, hnext, hlast⟩ := hcases hplay
  have hlt : s.nidx.toNat < s.slen.toNat := h.inv.playing hplay
  have hsucc := ticksBefore_succ c (h.notes_eq_some hlt hcode)
  have hdur : noteDur c code = d := h.cfg ▸ hd.symm
  have hcur := h.inv.cursor_succ hplay
  obtain ⟨hm, hmlt⟩ := h.playing hplay
  rcases Nat.lt_or_ge (s.ncnt.toNat + 1) d with hcount | hend
  · have ht := hwithin hcount
    have hcnt := h.inv.counter_succ
    have hnow : m + 1 = ticksBefore c notes s.nidx.toNat + (s.ncnt + 1#8).toNat := by omega
    have hbefore : m + 1 < ticksBefore c notes (s.nidx.toNat + 1) := by omega
    exact ⟨_, ht, { h with
      inv := exec_keeps_inv h.inv ht, playing := fun _ => ⟨hnow, hbefore⟩, stopped := by simp [hplay] }⟩
  have hstart : m + 1 = ticksBefore c notes (s.nidx.toNat + 1) := by omega
  rcases Nat.lt_or_ge (s.nidx.toNat + 1) s.slen.toNat with hmore | hdone
  · obtain ⟨next, hcode', ht⟩ := hnext hend hmore
    have hbefore : m + 1 < ticksBefore c notes (s.nidx.toNat + 1 + 1) := by
      rw [ticksBefore_succ c (h.notes_eq_some hmore hcode'), ← hstart]
      exact Nat.lt_add_of_pos_right (noteDur_pos (h.cfg ▸ h.inv.cfg) next)
    rw [← hcur] at hstart hbefore
    exact ⟨_, ht, { h with
      inv := exec_keeps_inv h.inv ht, playing := fun _ => ⟨hstart, hbefore⟩, stopped := by simp [hplay] }⟩
  · have ht := hlast hend hdone
    have hlen : s.nidx.toNat + 1 = s.slen.toNat := Nat.le_antisymm hlt hdone
    have hover : ticksBefore c notes notes.length ≤ m + 1 := by rw [hstart, hlen, h.slen]
    exact ⟨_, ht, { h with
      inv := exec_keeps_inv h.inv ht, playing := nofun,
      stopped := fun _ => ⟨BitVec.eq_of_toNat_eq (hcur.trans hlen), hover⟩ }⟩

/-- One tick later: a stopped song stays as it is. -/
theorem exec_hornTick : ∃ t, exec .hornTick s = .next t ∧ AtTick c notes (m + 1) t := by
  cases hplay : s.playing with
  | true => exact h.exec_hornTick_playing hplay
  | false =>
    obtain ⟨hend, hover⟩ := h.stopped hplay
    exact ⟨s, tickWhileStoppedChangesNothing s h.inv hplay,
      { h with playing := by simp [hplay], stopped := fun _ => ⟨hend, Nat.le_succ_of_le hover⟩ }⟩

theorem runInstrs_hornTicks (n : Nat) :
    ∃ t, runInstrs (List.replicate n .hornTick) s = .next t ∧ AtTick c notes (m + n) t := by
  induction n generalizing s m with
  | zero => exact ⟨s, rfl, h⟩
  | succ n ih =>
    obtain ⟨u, hu, hnext⟩ := h.exec_hornTick
    obtain ⟨t, ht, hat⟩ := ih hnext
    refine ⟨t, ?_, Nat.add_right_comm m n 1 ▸ hat⟩
    rw [List.replicate_succ, runInstrs_cons, hu]
    exact ht

/-- Before the sum of the durations the song plays. -/
theorem playing_of_lt (hm : m < ticksBefore c notes notes.length) : s.playing = true := by
  by_contra hstop
  obtain ⟨-, hover⟩ := h.stopped (Bool.eq_false_of_not_eq_true hstop)
  exact absurd hover (Nat.not_le_of_lt hm)

/-- From the sum of the durations on the song is stopped: the note at a playing cursor ends no later. -/
theorem stopped_of_ge (hm : ticksBefore c notes notes.length ≤ m) : s.playing = false := by
  by_contra hne
  have hplay : s.playing = true := Bool.eq_true_of_not_eq_false hne
  obtain ⟨-, hmlt⟩ := h.playing hplay
  have hlt : s.nidx.toNat < s.slen.toNat := h.inv.playing hplay
  have hmono := ticksBefore_mono c notes (show s.nidx.toNat + 1 ≤ notes.length from h.slen ▸ hlt)
  omega

/-- The note within whose ticks `m` lies is the one at the cursor, because the notes' ticks follow one another. -/
theorem cursor_eq {k : Nat} (hplay : s.playing = true) (hlo : ticksBefore c notes k ≤ m)
    (hhi : m < ticksBefore c notes (k + 1)) : s.nidx.toNat = k := by
  obtain ⟨hm, hmlt⟩ := h.playing hplay
  have hle : s.nidx.toNat < k + 1 := (ticksBefore_mono c notes).reflect_lt (by omega)
  have hge : k < s.nidx.toNat + 1 := (ticksBefore_mono c notes).reflect_lt (by omega)
  omega

end AtTick

/-- Settles O52: HORN.PLAY stands at tick 0 of its song, every tick is one further, and a position gives the cursor, the
counter and, by the invariants, the increment. -/
theorem songPlaysEachNoteForItsDuration : Obligations.SongPlaysEachNoteForItsDuration := by
  intro s id notes m hs hsong hpos
  obtain ⟨t, ht, hat⟩ := (AtTick.startSong hs hpos (hs.cfg.song_length_le hsong)).runInstrs_hornTicks m
  rw [Nat.zero_add] at hat
  refine ⟨t, ?_, fun k code hcode hlo hhi => ?note, hat.playing_of_lt, fun hover => ?ended⟩
  · rw [songRun, runInstrs_cons, exec_hornPlay_playable hsong hpos]
    exact ht
  case note =>
    have hk : k < notes.length := (List.getElem?_eq_some_iff.mp hcode).1
    have hplay := hat.playing_of_lt (hhi.trans_le (ticksBefore_mono _ _ hk))
    have hcur := hat.cursor_eq hplay hlo hhi
    obtain ⟨hm, -⟩ := hat.playing hplay
    have hlt : t.nidx.toNat < t.slen.toNat := hat.inv.playing hplay
    have hcode' := hat.notes_eq_some hlt (hat.inv.entry_buf hlt)
    have hentry : code = entry t.buf t.nidx.toNat := Option.some.inj (hcode.symm.trans (hcur ▸ hcode'))
    refine ⟨hplay, hcur, by rw [hcur] at hm; omega, ?_⟩
    rw [hat.inv.hinc, if_pos hplay, hentry, hat.cfg]
  case ended =>
    have hstop := hat.stopped_of_ge hover
    obtain ⟨hend, -⟩ := hat.stopped hstop
    exact ⟨hstop, hend, hat.slen, hat.inv.idle hstop, hat.inv.hinc.trans (if_neg (by simp [hstop]))⟩

end Sys2Proof.Machine
end

section
/-! The control command NOP (44_control). -/

namespace Sys2Proof.Machine

theorem exec_nop (s : State) : exec .nop s = .next s := rfl

theorem encode_nop : encode .nop = 0x0000#16 := rfl

/-- Settles O27: NOP's word is 0x0000, and the first range of R76 holds the other words of its opcode. -/
theorem nopChangesNothing : Obligations.NopChangesNothing := by
  refine ⟨exec_nop, fun w => ?word, fun w hlo hhi => ⟨.reservedBits, ?illegal⟩⟩
  case word => rw [decode_eq_ok_iff, encode_nop, eq_comm]
  case illegal => exact decode_eq_reservedBits_iff.mpr ((inRanges_cons _ _ w).mpr (.inl ⟨hlo, hhi⟩))

end Sys2Proof.Machine
end

section
/-! The host's program beside the block: its parameters' bounds, the setpoint and the horn request, one model tick with what
it does to EngineState, and the motor duty (48_host_controller). -/

namespace Sys2Proof

/-! What valid host parameters give (R200). -/

namespace HostParams.Valid

variable {p : HostParams} {c : Config} (h : p.Valid c)
include h

theorem idle_le_max : p.idle ≤ p.max := h.1.2
theorem idle_le_effects : p.idle ≤ p.effects := h.2.1
theorem hornCycle_pos : 0 < p.hornCycle := by
  obtain ⟨-, -, -, -, -, ⟨-, hcycle⟩, -⟩ := h
  omega
theorem blinkLen_pos : 0 < p.blinkLen := by
  obtain ⟨-, -, -, -, -, -, hblink, -⟩ := h
  omega

end HostParams.Valid

end Sys2Proof

namespace Sys2Proof.Machine

/-! The setpoint while RUNNING (R203). -/

/-- The clamped setpoint fits its byte: it is one of the bounds or the value itself. -/
theorem ofInt_clamp {lo hi : Byte} (h : lo ≤ hi) (x : Byte) :
    BitVec.ofInt 8 (clamp (x.toNat : Int) (lo.toNat : Int) (hi.toNat : Int)) =
      if x < lo then lo else if hi < x then hi else x := by
  have hclamp : clamp (x.toNat : Int) (lo.toNat : Int) (hi.toNat : Int) =
      ((if x < lo then lo else if hi < x then hi else x).toNat : Int) := by
    simp only [BitVec.lt_def, BitVec.le_def, clamp] at *
    split_ifs <;> omega
  rw [hclamp, BitVec.ofInt_natCast, BitVec.ofNat_toNat, BitVec.setWidth_eq]

theorem ofInt_clamp_bounds {lo hi : Byte} (h : lo ≤ hi) (x : Byte) :
    lo ≤ BitVec.ofInt 8 (clamp (x.toNat : Int) (lo.toNat : Int) (hi.toNat : Int)) ∧
      BitVec.ofInt 8 (clamp (x.toNat : Int) (lo.toNat : Int) (hi.toNat : Int)) ≤ hi := by
  rw [ofInt_clamp h]
  split_ifs with hlo hhi
  · exact ⟨BitVec.le_refl lo, h⟩
  · exact ⟨h, BitVec.le_refl hi⟩
  · exact ⟨BitVec.not_lt.mp hlo, BitVec.not_lt.mp hhi⟩

theorem setSpeedSetpoint_running {sys : System} (hv : sys.Valid) (hrun : sys.eng.status = .running) (raw : Byte) :
    setSpeedSetpoint raw sys = .next { sys with eng := { sys.eng with
      sp := if raw < sys.par.idle then sys.par.idle else if sys.par.max < raw then sys.par.max else raw } } := by
  simp only [setSpeedSetpoint, runHost_of hv, hrun, ofInt_clamp hv.2.idle_le_max]

/-- Settles O53. -/
theorem setpointClampedWhileRunning : Obligations.SetpointClampedWhileRunning := by
  intro sys raw hv
  refine ⟨fun hstill => ?still, fun hrun =>
    ⟨_, setSpeedSetpoint_running hv hrun raw, fun hlo => if_pos hlo, fun hhi => ?above, fun hlo hhi => ?within⟩⟩
  case still =>
    rw [setSpeedSetpoint, runHost_of hv]
    cases hstatus : sys.eng.status with
    | off | cranking => rfl
    | running => exact absurd hstatus hstill
  case above => rw [if_neg (BitVec.not_lt.mpr (BitVec.le_trans hv.2.idle_le_max (BitVec.le_of_lt hhi))), if_pos hhi]
  case within => rw [if_neg (BitVec.not_lt.mpr hlo), if_neg (BitVec.not_lt.mpr hhi)]

/-! Host procedures that complete. A well-formed command never stops, so nothing stops the host's program while its
parameters are valid and no fault is recorded. -/

/-- The host's program can run: its parameters and the configuration are valid, and no fault is recorded. -/
abbrev System.Ready (sys : System) : Prop := sys.Valid ∧ sys.block.fault = none

/-- The procedure answers a next state, in which the host's program can run on. -/
def Completes (o : HostOutcome) : Prop := ∃ t, o = .next t ∧ t.Ready

theorem completes_next {t : System} (h : t.Ready) : Completes (.next t) := ⟨t, rfl, h⟩

theorem completes_andThen {o : HostOutcome} {k : System → HostOutcome} (ho : Completes o)
    (hk : ∀ t, t.Ready → Completes (k t)) : Completes (andThen o k) := by
  obtain ⟨t, rfl, ht⟩ := ho
  exact hk t ht

theorem issue_of_exec {sys : System} (h : sys.Ready) {i : Instr} {b : State} (he : exec i sys.block = .next b) :
    issue i sys = .next { sys with block := b } := by
  rw [issue, deliver, whenReady_of h.1.1 h.2, command_of_decode (decode_encode i), he, andThen_next]

section

variable {sys : System} (h : sys.Ready)
include h

theorem issue_completes {i : Instr} (hi : i.wellFormed = true) : Completes (issue i sys) := by
  obtain ⟨b, hb⟩ := (wellFormedCommandsComplete i sys.block).1 hi
  obtain ⟨hcfg, hfault, -⟩ := commandsKeepConfiguration i sys.block b hb
  refine ⟨_, issue_of_exec h hb, ?_, hfault.trans h.2⟩
  rw [System.Valid, hcfg]
  exact h.1

theorem playHornSong_completes (id : Byte) : Completes (playHornSong id sys) := by
  rw [playHornSong, runHost_of h.1]
  split
  · exact completes_next h
  · exact issue_completes h rfl

theorem getSpeed_completes {k : Byte → System → HostOutcome} (hk : ∀ v t, t.Ready → Completes (k v t)) :
    Completes (getSpeed sys k) := by
  rw [getSpeed, runHost_of h.1]
  exact completes_andThen (issue_completes h rfl) fun t ht => hk _ t ht

theorem hornTiming_completes : Completes (hornTiming sys) := by
  have hn : System.Ready { sys with eng := { sys.eng with hornCnt := sys.eng.hornCnt + 1 } } := h
  simp only [hornTiming]
  split
  · exact playHornSong_completes hn _
  · split
    · exact completes_andThen (playHornSong_completes hn _) fun t ht => completes_next ht
    · exact completes_next hn

theorem updateOff_completes : Completes (updateOff sys) := by
  rw [updateOff]
  split
  · exact completes_next h
  · exact issue_completes h rfl

theorem updateCranking_completes : Completes (updateCranking sys) := by
  have hn : System.Ready { sys with eng := crankEngine sys.par sys.eng } := h
  exact issue_completes hn rfl

theorem updateRunning_completes : Completes (updateRunning sys) := by
  rw [updateRunning]
  split
  · exact completes_next h
  · refine getSpeed_completes h fun v t ht => completes_andThen ?_ fun u hu => completes_next hu
    split
    · exact completes_andThen (issue_completes ht rfl) fun u hu => hornTiming_completes hu
    · exact issue_completes ht rfl

theorem updateEngine_completes : Completes (updateEngine sys) := by
  rw [updateEngine]
  cases sys.eng.status with
  | off => exact updateOff_completes h
  | cranking => exact updateCranking_completes h
  | running => exact updateRunning_completes h

theorem ledOn_completes : Completes (ledOn sys) := by
  rw [ledOn, runHost_of h.1]
  split
  · exact getSpeed_completes h fun v t ht => completes_next ht
  · exact completes_next h

theorem update_completes : Completes (update sys) := by
  rw [update, runHost_of h.1]
  exact completes_andThen (updateEngine_completes h) fun t ht => ledOn_completes ht

end

/-- Settles O58. -/
theorem updateAlwaysCompletes : Obligations.UpdateAlwaysCompletes := fun _ hv hf => update_completes ⟨hv, hf⟩

/-- Settles O54. -/
theorem hornRequestGatedByIgnition : Obligations.HornRequestGatedByIgnition := by
  intro sys id hv hf
  rw [playHornSong, runHost_of hv]
  refine ⟨fun hoff => if_pos hoff, fun hon => ?_⟩
  obtain ⟨b, hb⟩ := (wellFormedCommandsComplete (.hornPlay id) sys.block).1 rfl
  exact ⟨b, hb, (if_neg hon).trans (issue_of_exec ⟨hv, hf⟩ hb)⟩

/-! What one model tick does to EngineState (R210). -/

/-- One `update()` on EngineState, by its status and the ignition. The light and the filter step leave EngineState alone,
and at most one horn step happens: the counter goes on, and back to 0 at the end of its cycle. -/
inductive EngineTick (p : HostParams) (e : Engine) : Engine → Prop where
  | rest (hstatus : e.status = .off) (hign : e.ign ≠ .start) : EngineTick p e e
  | startCranking (hstatus : e.status = .off) (hign : e.ign = .start) :
    EngineTick p e { e with status := .cranking, sp := p.crankSpeed, crank := 0 }
  | crank (hstatus : e.status = .cranking) (hcrank : e.crank < p.minCrankTicks) (hign : e.ign = .start) :
    EngineTick p e { e with crank := e.crank + 1 }
  | release (hstatus : e.status = .cranking) (hcrank : e.crank < p.minCrankTicks) (hign : e.ign ≠ .start) :
    EngineTick p e { e with status := .off, sp := 0#8, crank := e.crank + 1 }
  | fire (hstatus : e.status = .cranking) (hcrank : p.minCrankTicks ≤ e.crank) :
    EngineTick p e { e with status := .running, sp := p.idle, crank := e.crank + 1, hornCnt := 0, blink := 0 }
  | stop (hstatus : e.status = .running) (hign : e.ign = .off) :
    EngineTick p e { e with status := .off, sp := 0#8 }
  | run (hstatus : e.status = .running) (hign : e.ign ≠ .off) (n : Nat)
    (hn : n = e.hornCnt ∨ n = if e.hornCnt + 1 = p.hornCycle then 0 else e.hornCnt + 1) :
    EngineTick p e { e with hornCnt := n, blink := (e.blink + 1) % p.blinkLen }

theorem crankEngine_tick {p : HostParams} {e : Engine} (hstatus : e.status = .cranking) :
    EngineTick p e (crankEngine p e) := by
  simp only [crankEngine]
  split_ifs with hend hign
  · exact .fire hstatus (Nat.lt_succ_iff.mp hend)
  · exact .release hstatus (by omega) hign
  · exact .crank hstatus (by omega) (not_not.mp hign)

/-- Horn timing steps the horn counter, which wraps at the end of the cycle. -/
theorem hornTiming_counts {sys t : System} (h : hornTiming sys = .next t) (hpos : 0 < sys.par.hornCycle) :
    ∃ b, t = { sys with block := b, eng := { sys.eng with
      hornCnt := if sys.eng.hornCnt + 1 = sys.par.hornCycle then 0 else sys.eng.hornCnt + 1 } } := by
  simp only [hornTiming] at h
  split at h
  · rename_i hhalf
    obtain ⟨b, rfl⟩ := playHornSong_next h
    exact ⟨b, by rw [if_neg (by omega)]⟩
  · split at h
    · rename_i hend
      obtain ⟨u, hplay, hu⟩ := andThen_eq_next.mp h
      obtain ⟨b, rfl⟩ := playHornSong_next hplay
      cases hu
      exact ⟨b, by rw [if_pos hend]⟩
    · rename_i hend
      cases h
      exact ⟨sys.block, by rw [if_neg hend]⟩

theorem updateOff_next {sys t : System} (hstatus : sys.eng.status = .off) (h : updateOff sys = .next t) :
    ∃ b e, t = { sys with block := b, eng := e } ∧ EngineTick sys.par sys.eng e := by
  unfold updateOff at h
  split at h
  · cases h
    exact ⟨_, _, rfl, .startCranking hstatus ‹_›⟩
  · obtain ⟨b, rfl⟩ := issue_next h
    exact ⟨b, _, rfl, .rest hstatus ‹_›⟩

theorem updateCranking_next {sys t : System} (hstatus : sys.eng.status = .cranking) (h : updateCranking sys = .next t) :
    ∃ b e, t = { sys with block := b, eng := e } ∧ EngineTick sys.par sys.eng e := by
  obtain ⟨b, rfl⟩ := issue_next h
  exact ⟨b, _, rfl, crankEngine_tick hstatus⟩

theorem updateRunning_next {sys t : System} (hpos : 0 < sys.par.hornCycle) (hstatus : sys.eng.status = .running)
    (h : updateRunning sys = .next t) :
    ∃ b e, t = { sys with block := b, eng := e } ∧ EngineTick sys.par sys.eng e := by
  unfold updateRunning at h
  split at h
  · cases h
    exact ⟨_, _, rfl, .stop hstatus ‹_›⟩
  · rename_i hign
    obtain ⟨v, b, h⟩ := getSpeed_next h
    obtain ⟨u, hstep, hu⟩ := andThen_eq_next.mp h
    cases hu
    split at hstep
    · obtain ⟨w, hfilter, hhorn⟩ := andThen_eq_next.mp hstep
      obtain ⟨b', rfl⟩ := issue_next hfilter
      obtain ⟨b'', rfl⟩ := hornTiming_counts hhorn hpos
      exact ⟨b'', _, rfl, .run hstatus hign _ (.inr rfl)⟩
    · obtain ⟨b', rfl⟩ := issue_next hstep
      exact ⟨b', _, rfl, .run hstatus hign _ (.inl rfl)⟩

/-- Everything one `update()` can do when it completes: the engine's tick, commands to the block, and the light. -/
theorem update_next {sys t : System} (h : update sys = .next t) :
    sys.Valid ∧ ∃ b l e, t = { sys with block := b, light := l, eng := e } ∧ EngineTick sys.par sys.eng e := by
  obtain ⟨hv, h⟩ := runHost_eq_next.mp h
  obtain ⟨u, hengine, hled⟩ := andThen_eq_next.mp h
  have hu : ∃ b e, u = { sys with block := b, eng := e } ∧ EngineTick sys.par sys.eng e := by
    unfold updateEngine at hengine
    split at hengine
    · exact updateOff_next ‹_› hengine
    · exact updateCranking_next ‹_› hengine
    · exact updateRunning_next hv.2.hornCycle_pos ‹_› hengine
  obtain ⟨b, e, rfl, htick⟩ := hu
  obtain ⟨b', l, rfl⟩ := ledOn_next hled
  exact ⟨hv, b', l, e, rfl, htick⟩

/-! The setpoint invariant (R202). It reads the parameters, the status and the setpoint alone, so a procedure that only
issues commands keeps it as it stands. -/

theorem idleSystem_setpointInv (p : HostParams) (c : Config) : setpointInv (idleSystem p c) := rfl

theorem issue_keeps_setpointInv {i : Instr} {sys t : System} (h : issue i sys = .next t) (hs : setpointInv sys) :
    setpointInv t := by
  obtain ⟨b, rfl⟩ := issue_next h
  exact hs

theorem setSpeedSetpoint_keeps_setpointInv {raw : Byte} {sys t : System} (h : setSpeedSetpoint raw sys = .next t)
    (hs : setpointInv sys) : setpointInv t := by
  obtain ⟨hv, rfl | ⟨hrun, rfl⟩⟩ := setSpeedSetpoint_next h
  · exact hs
  · simp only [setpointInv, hrun]
    exact ofInt_clamp_bounds hv.2.idle_le_max raw

theorem setIgnitionPosition_keeps_setpointInv {pos : Ignition} {sys t : System}
    (h : setIgnitionPosition pos sys = .next t) (hs : setpointInv sys) : setpointInv t := by
  obtain rfl := setIgnitionPosition_next h
  exact hs

theorem playHornSong_keeps_setpointInv {id : Byte} {sys t : System} (h : playHornSong id sys = .next t)
    (hs : setpointInv sys) : setpointInv t := by
  obtain ⟨b, rfl⟩ := playHornSong_next h
  exact hs

/-- A tick either changes status and setpoint together, to a pair that the invariant allows, or leaves both. -/
theorem EngineTick.keeps_setpointInv {sys : System} (hv : sys.Valid) {e : Engine} (htick : EngineTick sys.par sys.eng e)
    (hs : setpointInv sys) : setpointInv { sys with eng := e } := by
  cases htick with
  | rest | crank | run => exact hs
  | startCranking | release | stop => rfl
  | fire => exact ⟨BitVec.le_refl _, hv.2.idle_le_max⟩

theorem update_keeps_setpointInv {sys t : System} (h : update sys = .next t) (hs : setpointInv sys) : setpointInv t := by
  obtain ⟨hv, b, l, e, rfl, htick⟩ := update_next h
  exact htick.keeps_setpointInv hv hs

section

variable {map : InputMap} (hmap : ∀ (x : Byte) (u w : System), setpointInv u → map x u = .next w → setpointInv w)
  {throttle ladder : Byte} {sys t : System}
include hmap

theorem modelTick_keeps_setpointInv (h : modelTick map throttle ladder sys = .next t) (hs : setpointInv sys) :
    setpointInv t := by
  obtain ⟨u, hladder, h⟩ := andThen_eq_next.mp h
  obtain ⟨w, hinput, h⟩ := andThen_eq_next.mp h
  obtain ⟨x, hupdate, h⟩ := andThen_eq_next.mp h
  obtain ⟨z, htick, h⟩ := andThen_eq_next.mp h
  obtain ⟨v, b, h⟩ := getSpeed_next h
  obtain ⟨d, -, h⟩ := andThen_eq_next.mp h
  cases h
  have hw : setpointInv w := hmap throttle u w (issue_keeps_setpointInv hladder hs) hinput
  have hz : setpointInv z := issue_keeps_setpointInv htick (update_keeps_setpointInv hupdate hw)
  exact hz

theorem mainPass_keeps_setpointInv (h : mainPass map throttle ladder sys = .next t) (hs : setpointInv sys) :
    setpointInv t := by
  obtain ⟨-, h⟩ := runHost_eq_next.mp h
  split at h
  · obtain ⟨u, hsample, h⟩ := andThen_eq_next.mp h
    have hu : setpointInv u := issue_keeps_setpointInv hsample hs
    simp only at h
    split at h
    · exact modelTick_keeps_setpointInv hmap h hu
    · cases h
      exact hu
  · cases h
    exact hs

end

theorem referenceInputMap_keeps_setpointInv {throttle : Byte} {sys t : System}
    (h : referenceInputMap throttle sys = .next t) (hs : setpointInv sys) : setpointInv t := by
  obtain ⟨start, b₁, h⟩ := queryBit_next h
  obtain ⟨on, b₂, h⟩ := queryBit_next h
  obtain ⟨u, hign, h⟩ := andThen_eq_next.mp h
  have hu : setpointInv u := setIgnitionPosition_keeps_setpointInv hign hs
  obtain ⟨horn, b₃, h⟩ := queryBit_next h
  obtain ⟨w, hplay, hspeed⟩ := andThen_eq_next.mp h
  refine setSpeedSetpoint_keeps_setpointInv hspeed ?_
  split at hplay
  · exact playHornSong_keeps_setpointInv hplay hu
  · cases hplay
    exact hu

/-- Settles O55, procedure by procedure. -/
theorem setpointInvariantKept : Obligations.SetpointInvariantKept := by
  refine ⟨fun p c t h => ?reset, fun sys t hs => ⟨fun _ h => setSpeedSetpoint_keeps_setpointInv h hs,
    fun _ h => setIgnitionPosition_keeps_setpointInv h hs, fun _ h => playHornSong_keeps_setpointInv h hs,
    fun h => update_keeps_setpointInv h hs, fun h => ?speed, fun h => ?light, fun h => ?callback,
    fun _ _ _ hmap h => mainPass_keeps_setpointInv hmap h hs, fun _ h => referenceInputMap_keeps_setpointInv h hs⟩⟩
  case reset =>
    obtain ⟨-, -, rfl⟩ := systemReset_next h
    exact idleSystem_setpointInv p c
  case speed =>
    obtain ⟨v, b, h⟩ := getSpeed_next h
    cases h
    exact hs
  case light =>
    obtain ⟨b, l, rfl⟩ := ledOn_next h
    exact hs
  case callback =>
    obtain ⟨-, h⟩ := runHost_eq_next.mp h
    cases h
    exact hs

/-! The counters and the end of cranking (R211). -/

theorem idleSystem_counterInv {p : HostParams} {c : Config} (hp : p.Valid c) : counterInv (idleSystem p c) :=
  ⟨Nat.zero_le _, nofun, hp.hornCycle_pos, hp.blinkLen_pos⟩

theorem EngineTick.keeps_counterInv {sys : System} (hv : sys.Valid) {e : Engine} (htick : EngineTick sys.par sys.eng e)
    (hs : counterInv sys) : counterInv { sys with eng := e } := by
  obtain ⟨hcrank, hcranking, hhorn, hblink⟩ := hs
  cases htick with
  | rest => exact ⟨hcrank, hcranking, hhorn, hblink⟩
  | startCranking => exact ⟨Nat.zero_le _, fun _ => Nat.zero_le _, hhorn, hblink⟩
  | crank _ hlt _ => exact ⟨Nat.succ_le_succ hlt.le, fun _ => hlt, hhorn, hblink⟩
  | release _ hlt _ => exact ⟨Nat.succ_le_succ hlt.le, nofun, hhorn, hblink⟩
  | fire hstatus _ => exact ⟨Nat.succ_le_succ (hcranking hstatus), nofun, hv.2.hornCycle_pos, hv.2.blinkLen_pos⟩
  | stop => exact ⟨hcrank, nofun, hhorn, hblink⟩
  | run _ _ n hn =>
    refine ⟨hcrank, hcranking, ?_, Nat.mod_lt _ hv.2.blinkLen_pos⟩
    change n < sys.par.hornCycle
    split_ifs at hn <;> omega

theorem update_keeps_counterInv {sys t : System} (hs : counterInv sys) (h : update sys = .next t) : counterInv t := by
  obtain ⟨hv, b, l, e, rfl, htick⟩ := update_next h
  exact htick.keeps_counterInv hv hs

/-- The host after `n + 1` updates from reset with the ignition held at START: CRANKING with the counter at `n` until that
passes MIN_CRANK_TICKS, RUNNING from then on. -/
structure HeldAtStart (p : HostParams) (n : Nat) (sys : System) : Prop where
  ready : sys.Ready
  par : sys.par = p
  ign : sys.eng.ign = .start
  cranking : n ≤ p.minCrankTicks → sys.eng.status = .cranking ∧ sys.eng.crank = n
  running : p.minCrankTicks < n → sys.eng.status = .running

/-- The first update with the ignition at START enters CRANKING. -/
theorem HeldAtStart.first {p : HostParams} {sys : System} (hready : sys.Ready) (hpar : sys.par = p)
    (hoff : sys.eng.status = .off) (hign : sys.eng.ign = .start) : ∃ t, update sys = .next t ∧ HeldAtStart p 0 t := by
  obtain ⟨t, ht, hreadyt⟩ := update_completes hready
  obtain ⟨-, b, l, e, rfl, htick⟩ := update_next ht
  refine ⟨_, ht, ?_⟩
  cases htick with
  | startCranking => exact ⟨hreadyt, hpar, hign, fun _ => ⟨rfl, rfl⟩, nofun⟩
  | rest _ hne => exact absurd hign hne
  | crank hstatus | release hstatus | fire hstatus | stop hstatus | run hstatus =>
    exact nomatch hoff.symm.trans hstatus

section

variable {p : HostParams} {n : Nat} {sys : System} (h : HeldAtStart p n sys)
include h

theorem HeldAtStart.not_off : sys.eng.status ≠ .off := by
  rcases Nat.lt_or_ge p.minCrankTicks n with hn | hn
  · simp [h.running hn]
  · simp [h.cranking hn]

theorem HeldAtStart.crank_of_cranking (hstatus : sys.eng.status = .cranking) : sys.eng.crank = n := by
  rcases Nat.lt_or_ge p.minCrankTicks n with hn | hn
  · exact nomatch hstatus.symm.trans (h.running hn)
  · exact (h.cranking hn).2

theorem HeldAtStart.lt_of_running (hstatus : sys.eng.status = .running) : p.minCrankTicks < n :=
  Nat.lt_of_not_le fun hn => nomatch hstatus.symm.trans (h.cranking hn).1

/-- Each further update counts one tick more. -/
theorem HeldAtStart.next : ∃ t, update sys = .next t ∧ HeldAtStart p (n + 1) t := by
  obtain ⟨t, ht, hreadyt⟩ := update_completes h.ready
  obtain ⟨-, b, l, e, rfl, htick⟩ := update_next ht
  refine ⟨_, ht, ?_⟩
  cases htick with
  | rest hstatus | startCranking hstatus => exact absurd hstatus h.not_off
  | release _ _ hne => exact absurd h.ign hne
  | stop _ hoff => exact nomatch h.ign.symm.trans hoff
  | crank hstatus hlt =>
    rw [h.par] at hlt
    obtain rfl := h.crank_of_cranking hstatus
    exact ⟨hreadyt, h.par, h.ign, fun _ => ⟨hstatus, rfl⟩, fun hn => by omega⟩
  | fire hstatus hge =>
    rw [h.par] at hge
    obtain rfl := h.crank_of_cranking hstatus
    exact ⟨hreadyt, h.par, h.ign, fun hn => by omega, fun _ => rfl⟩
  | run hstatus =>
    have hn := h.lt_of_running hstatus
    exact ⟨hreadyt, h.par, h.ign, fun hle => by omega, fun _ => hstatus⟩

end

theorem HeldAtStart.after_updates {p : HostParams} {n : Nat} {sys : System} (h : HeldAtStart p n sys) (m : Nat) :
    ∃ t, updates m sys = .next t ∧ HeldAtStart p (n + m) t := by
  induction m generalizing n sys with
  | zero => exact ⟨sys, rfl, h⟩
  | succ m ih =>
    obtain ⟨u, hu, hnext⟩ := h.next
    obtain ⟨t, ht, hlast⟩ := ih hnext
    refine ⟨t, ?_, ?_⟩
    · rw [updates, hu]
      exact ht
    · rwa [Nat.add_right_comm] at hlast

/-- From host reset with the ignition at START, `n + 1` updates complete. -/
theorem updates_from_reset {p : HostParams} {c : Config} (hc : c.Valid) (hp : p.Valid c) (n : Nat) :
    ∃ s₀ s₁ t, systemReset p c = .next s₀ ∧ setIgnitionPosition .start s₀ = .next s₁ ∧ updates (n + 1) s₁ = .next t ∧
      HeldAtStart p n t := by
  have hidle : (idleSystem p c).Ready := ⟨⟨hc, hp⟩, rfl⟩
  obtain ⟨s₁, hset, hready, hpar, hoff, hign⟩ : ∃ s₁, setIgnitionPosition .start (idleSystem p c) = .next s₁ ∧
      s₁.Ready ∧ s₁.par = p ∧ s₁.eng.status = .off ∧ s₁.eng.ign = .start :=
    ⟨_, runHost_of hidle.1 _, hidle, rfl, rfl, rfl⟩
  obtain ⟨u, hu, hfirst⟩ := HeldAtStart.first hready hpar hoff hign
  obtain ⟨t, ht, hlast⟩ := hfirst.after_updates n
  refine ⟨_, s₁, t, whenHostValid_of hc hp _, hset, ?_, Nat.zero_add n ▸ hlast⟩
  rw [updates, hu]
  exact ht

/-- Settles O56. -/
theorem crankingEndsAndCountersBounded : Obligations.CrankingEndsAndCountersBounded := by
  refine ⟨fun p c t h => ?reset, fun _ _ => update_keeps_counterInv, fun p c n hc hp => ?held⟩
  case reset =>
    obtain ⟨-, hp, rfl⟩ := systemReset_next h
    exact idleSystem_counterInv hp
  case held =>
    obtain ⟨s₀, s₁, t, hreset, hset, hrun, hheld⟩ := updates_from_reset hc hp n
    refine ⟨s₀, s₁, t, hreset, hset, hrun, ?_, fun hn => (hheld.cranking hn).1, hheld.running⟩
    rintro rfl
    exact hheld.cranking (Nat.zero_le _)

/-! The motor duty (R213). -/

theorem dutyValue_below {p : HostParams} {v : Byte} (h : v < p.effects) : dutyValue p v = 0 := if_pos h

/-- From EFFECTS on the speed is not below IDLE, so the subtraction of the formula is exact. -/
theorem dutyValue_from {p : HostParams} {c : Config} (hp : p.Valid c) {v : Byte} (h : p.effects ≤ v) :
    (dutyValue p v : Int) =
      min ((p.minDuty.toNat : Int) + ((v.toNat : Int) - p.idle.toNat) / 2) p.maxDuty.toNat := by
  have hidle : p.idle.toNat ≤ v.toNat := BitVec.le_trans hp.idle_le_effects h
  rw [dutyValue, if_neg (BitVec.not_lt.mpr h), Nat.shiftRight_eq_div_pow]
  omega

theorem duty_reference (v : Byte) :
    duty .reference .reference v = .next (dutyValue .reference v) :=
  whenHostValid_of Config.reference_valid HostParams.reference_valid _

/-- Settles O57. -/
theorem motorDutyShaped : Obligations.MotorDutyShaped :=
  ⟨fun _ _ _ hc hp => ⟨_, whenHostValid_of hc hp _, dutyValue_below, dutyValue_from hp⟩,
    duty_reference 71#8, duty_reference 72#8, duty_reference 199#8⟩

end Sys2Proof.Machine
end

section
/-! When a step faults, and what a fault leaves of the block (60_exceptions). -/

namespace Sys2Proof.Machine

/-! Which outcomes are faults: of the guard, of a command, of a command word, of an access (R240, R241). -/

/-- A guarded step faults exactly when the block is ready and the step faults. -/
theorem whenReady_eq_fault {s : State} {r : Fault} {k : Host.Outcome State Fault Refusal} :
    whenReady s k = .fault r ↔ s.Ready ∧ k = .fault r := by
  by_cases hc : s.cfg.Valid
  · cases hf : s.fault with
    | none => rw [whenReady_of hc hf, and_iff_right ⟨hc, hf⟩]
    | some r' =>
      rw [whenReady_afterFault hc hf]
      exact ⟨nofun, fun h => nomatch hf.symm.trans h.1.2⟩
  · rw [whenReady_invalid hc]
    exact ⟨nofun, fun h => absurd h.1.1 hc⟩

/-- A command faults exactly when it is ill formed, with BAD_BUTTON and its word (R77, R104). -/
theorem exec_eq_fault {i : Instr} {s : State} {r : Fault} :
    exec i s = .fault r ↔ i.wellFormed = false ∧ r = .badButton (encode i) := by
  obtain ⟨hcompletes, hfaults⟩ := wellFormedCommandsComplete i s
  cases hwf : i.wellFormed with
  | true =>
    obtain ⟨t, ht⟩ := hcompletes hwf
    simp [ht]
  | false => simp [hfaults hwf, eq_comm]

/-- A command word faults for the two reasons of R241 and no other: it decodes to ILLEGAL, or it asks for the button id 3. -/
theorem command_eq_fault {w : Word} {s : State} {r : Fault} :
    command w s = .fault r ↔
      (∃ e, decode w = .error e) ∧ r = .illegalCmd w ∨ (w = 0x2003#16 ∨ w = 0x3003#16) ∧ r = .badButton w := by
  cases hw : decode w with
  | ok i =>
    rw [command_of_decode hw, exec_eq_fault, wellFormed_eq_false_iff_word hw, encode_of_decode hw]
    simp
  | error e =>
    have hbutton : ¬ (w = 0x2003#16 ∨ w = 0x3003#16) := by
      rintro (rfl | rfl) <;> exact nomatch hw
    simp [command_illegal hw, hbutton, eq_comm]

/-- An access faults exactly when it carries a command word to the command port and that word faults. -/
theorem serve_eq_fault {a : Access} {s : State} {r : Fault} :
    serve a s = .fault r ↔ ∃ w, commandWord s.cfg a = some w ∧ command w s = .fault r := by
  cases a with
  | writeCmd w => simp [serve, commandWord]
  | readCmd | readResult | writeResult => simp [serve, commandWord, readCmdPort, readResultPort]
  | busRead addr width =>
    simp only [serve, busReadPort, commandWord]
    split <;> simp [readCmdPort, readResultPort]
  | busWrite addr bytes =>
    simp only [serve, busWritePort, commandWord]
    cases locate s.cfg addr bytes.length with
    | ok port => cases port <;> simp
    | error r' => simp

/-- A step faults exactly when the block is ready and its oldest access carries a command word that faults. -/
theorem step_eq_fault {s : State} {r : Fault} :
    step s = .fault r ↔ s.Ready ∧ ∃ a rest w, s.pending = a :: rest ∧ commandWord s.cfg a = some w ∧
      command w (s.setPending rest) = .fault r := by
  refine whenReady_eq_fault.trans (and_congr_right fun _ => ?_)
  cases s.pending with
  | nil => simp
  | cons a rest => simp [serve_eq_fault]

/-- Settles O16: the code of a reason is that of its constructor. -/
theorem stepFaultReasons : Obligations.StepFaultReasons := by
  intro s r
  have hcode (w : Word) : (r = .illegalCmd w ↔ r = .illegalCmd w ∧ faultCode r = 1) ∧
      (r = .badButton w ↔ r = .badButton w ∧ faultCode r = 2) := by
    constructor <;> exact ⟨fun h => ⟨h, h ▸ rfl⟩, And.left⟩
  simp only [step_eq_fault, command_eq_fault, ← hcode]

/-! What a fault leaves of the block (R240, R242). -/

/-- After a fault every step is refused, and names the fault. -/
theorem step_afterFault {s : State} (hc : s.cfg.Valid) {r : Fault} (hf : s.fault = some r) :
    step s = .refused (.afterFault r) := whenReady_afterFault hc hf _

theorem afterStep_of_refused {s : State} {q : Refusal} (h : step s = .refused q) : s.afterStep = s := by
  rw [State.afterStep, h]
  rfl

/-- Settles O17. -/
theorem faultsAreSticky : Obligations.FaultsAreSticky := by
  refine ⟨fun s r h => ?recorded, fun s r hc hf => ?refused, fun _ => rfl⟩
  case recorded => simp [afterStep_of_fault h]
  case refused =>
    have hstep := step_afterFault hc hf
    exact ⟨hstep, afterStep_of_refused hstep, by simp [State.endedNormally, hf]⟩

/-- Settles O18. -/
theorem faultsArePrecise : Obligations.FaultsArePrecise := fun _ _ => afterStep_of_fault

end Sys2Proof.Machine
end

section
/-! Reset of the block and of its host, what the first commands after reset give, a block without work, and what is
refused under broken parameters (70_reset_and_hazards). -/

namespace Sys2Proof.Machine

/-! Power-on reset (R260, R262). -/

/-- Settles O19. -/
theorem resetLeavesStateIdle : Obligations.ResetLeavesStateIdle := by
  refine ⟨?fields, Config.reference, rfl⟩
  case fields =>
    rintro c s rfl
    have hbuf : ∀ x ∈ (State.resetWith c).buf, x = 0#8 := fun _ => List.eq_of_mem_replicate
    exact ⟨rfl, rfl, rfl, List.length_replicate, hbuf, rfl, rfl, rfl, rfl, rfl, rfl, rfl, rfl, rfl, rfl⟩

theorem publicSpeed_of_zero {s : State} (h : s.y = 0) : publicSpeed s = 0#8 := by
  rw [publicSpeed, h, Nat.zero_shiftRight]

/-- With the horn silent, OSC.SAMPLE returns the engine sample alone (R142, R144). -/
theorem exec_oscSample_hornSilent {s : State} (h : s.playing = false ∨ s.hinc = 0) (v : Byte) :
    ∃ t, exec (.oscSample v) s = .next t ∧ t.result = zext16 (engineTick s.cfg v.toNat s.phE).2 := by
  refine ⟨_, exec_oscSample v s, ?_⟩
  rw [hornTrackTick_silent _ h, mix_silence_right]

/-- Where no button was held and no click was pending, every held button rises (R102). -/
theorem latchClicks_zero_zero (n : ButtonMask) : latchClicks 0#3 0#3 n = n := by
  rw [latchClicks_eq, BitVec.not_zero, BitVec.and_allOnes, BitVec.zero_or]

/-- The id 3 names no bit of a mask. -/
theorem ne_three_of_getLsbD {m : ButtonMask} {b : BitVec 2} (h : m.getLsbD b.toNat = true) : b ≠ 3#2 := by
  rintro rfl
  exact Bool.false_ne_true ((BitVec.getLsbD_of_ge m 3 le_rfl).symm.trans h)

/-- LAD.CLICKED reports a pending click (R106). -/
theorem exec_ladClicked_pending {s : State} {b : BitVec 2} (h : s.clicks.getLsbD b.toNat = true) :
    ∃ u, exec (.ladClicked b) s = .next u ∧ u.result = 1#16 := by
  refine ⟨_, exec_ladClicked (ne_three_of_getLsbD h) s, ?_⟩
  simp [← zextBit_maskBit, maskBit, h, zextBit]

/-- Settles O20, command by command: at reset the filter value, both ladder masks and the increment are 0 and no song
plays. -/
theorem resetConsequences : Obligations.ResetConsequences := by
  rintro c s hc rfl
  have hsample (v : Byte) := exec_oscSample_hornSilent (s := State.resetWith c) (.inl rfl) v
  refine ⟨⟨_, exec_lpfGet _, ?speed⟩, hsample 0#8, hsample, fun b hb => ⟨_, exec_ladPressed hb _, ?pressed⟩,
    fun b hb => ⟨_, exec_ladClicked hb _, ?clicked⟩, tickWhileStoppedChangesNothing _ (resetWith_inv hc) rfl,
    fun v => ⟨_, exec_ladSet v _, latchClicks_zero_zero _, rfl, fun b hbit => exec_ladClicked_pending ?pending⟩⟩
  case speed =>
    rw [publicSpeed_of_zero rfl]
    rfl
  case pressed | clicked => simp
  case pending => exact (latchClicks_zero_zero (bandMask c v.toNat)).symm ▸ hbit

/-! Steps of a block without work, or without a valid configuration (R264, R265). -/

/-- Settles O12. -/
theorem blockWaitsForHost : Obligations.BlockWaitsForHost := by
  rintro s ⟨hc, hf⟩ hp
  rw [step, serveNext, whenReady_of hc hf, hp]

/-- Settles O13: the guard of a step looks at the configuration first. -/
theorem invalidConfigurationRefused : Obligations.InvalidConfigurationRefused := fun _ hc => whenReady_invalid hc _

/-! The host's program: the refusal of broken parameters, and host reset (R263, R264). -/

/-- Settles O59: every procedure stands under the one guard, which asks for the configuration and then for the host's
parameters. -/
theorem invalidHostParametersRefused : Obligations.InvalidHostParametersRefused := by
  rintro sys _ hbad rfl
  have hrefused (k : HostOutcome) := whenHostValid_invalid hbad k
  exact ⟨hrefused _, fun _ => hrefused _, fun _ => hrefused _, fun _ => hrefused _, fun _ => hrefused _, hrefused _,
    hrefused _, fun _ => whenHostValid_invalid hbad _, hrefused _, fun _ _ _ => hrefused _⟩

/-- Settles O60. -/
theorem hostResetLeavesIdle : Obligations.HostResetLeavesIdle := fun p c hc hp =>
  ⟨idleSystem p c, whenHostValid_of hc hp _, rfl, rfl, rfl, rfl, rfl, rfl, rfl, rfl, rfl, rfl, rfl⟩

end Sys2Proof.Machine
end

section
/-! The round trip of words and commands (30_encoding), and which commands write each field (10_state). -/

namespace Sys2Proof.Machine

/-- Settles O1. -/
theorem decodeOfEncodeIsCommand : Obligations.DecodeOfEncodeIsCommand := decode_encode

/-- Settles O2. -/
theorem decodedWordIsEncoding : Obligations.DecodedWordIsEncoding := fun _ _ => encode_of_decode

/-- Settles O23, command by command: a field that the command does not write is the old state's, and every field that it
does write names the command among its writers. -/
theorem onlyNamedCommandsWrite : Obligations.OnlyNamedCommandsWrite := by
  intro i s t h
  rcases exec_cases h with ⟨rfl, rfl⟩ | ⟨v, c, rfl, rfl⟩ | ⟨b, rfl, -, rfl⟩ | ⟨b, rfl, -, rfl⟩ | ⟨a, sp, rfl, rfl⟩ |
    ⟨rfl, rfl⟩ | ⟨v, m, rfl, rfl⟩ | ⟨id, b, l, k, n, p, inc, rfl, rfl⟩ | ⟨k, n, p, inc, rfl, rfl⟩ <;>
    simp

end Sys2Proof.Machine
end
